-- ==== Sys2Proof/Word.lean ====
section
/-! DEFINITION. The data types of 00_scope.md R6: bytes, 4-byte words, 16-byte blocks, schedules of eleven blocks, and
the round index. Nothing here computes anything. -/

namespace Sys2Proof

/-- `Byte`: an unsigned 8-bit value, bit 7 most significant (R6). -/
abbrev Byte := BitVec 8

/-- `Word4`: 4 bytes indexed 0..3 (R6). -/
abbrev Word4 := Vector Byte 4

/-- `Block`: 16 bytes indexed 0..15, index 0 first in stream order; keys, round keys, plaintext and ciphertext blocks and
the State are all `Block`s (R6). -/
abbrev Block := Vector Byte 16

/-- `Sched`: 11 `Block`s indexed 0..10 (R6). -/
abbrev Sched := Vector Block 11

/-- A round index 0..10: the `rnd` field of the sequencer position (10_state.md R15) and the index of `RK` (R14). -/
abbrev Round := Fin 11

end Sys2Proof
end

