-- ==== Sys2Proof/Config.lean ====
section
/-! DEFINITION. What an implementation fixes and the spec leaves open: the parameters of 00_scope.md R5 and the free values
(draws) of 93_implementation_defined.md. An opaque constant has no body: nothing in Lean can evaluate it or prove a value of it. -/

namespace Sys2Proof

/-- A DRAW (00_scope.md glossary: "a value the model must leave unconstrained"): 16 bytes, for the contents of `RK`, `ST`
and `DOUT` after reset (R23, U7) and for what `dout` shows while `OVLD = 0` (R12, U6).
First argument: how many draws were taken before, so that two draws need not agree.
Second argument: the data registers' contents at that moment, so that nothing can be proved about a draw being independent
of an old key or an old ciphertext (92 D24). DESIGN CHOICE of form, assumption log 1, 2, 3. -/
opaque Config.draw : Nat → List Block → Block

/-- Entry 0 of the round-constant table: it exists, its value is not given, no operation of the core reads it
(20_memory.md R32, U1). A free value, assumption log 4. -/
opaque Config.rconZero : Byte

/-- `N_LANES`, the number of round pipelines: 1 (00_scope.md R5, 92 D15). -/
def Config.nLanes : Nat := 1

/-- `CYC_LDKEY`, clock cycles of an LDKEY: OPEN, used by no rule (00_scope.md R5, U13). -/
opaque Config.cycLdkey : Nat

/-- `CYC_ENC`, clock cycles of an ENC: OPEN, used by no rule (00_scope.md R5, U13). -/
opaque Config.cycEnc : Nat

/-- `N_SBOX`, physical copies of the S-box ROM: OPEN, unobservable (00_scope.md R5, U14). -/
opaque Config.nSbox : Nat

end Sys2Proof
end

