-- ==== Sys2Proof/Machine/State.lean ====
section
/-! DEFINITION. The state of the machine: the seven registers of 10_state.md R10, and the model's own fields for the outside
world (turns, replies, a function unit's result, the count of draws). Plain data throughout. -/

namespace Sys2Proof.Machine

/-- `SEQ.op` (10_state.md R15): IDLE (code 0), KX (1), EN (2). -/
inductive SeqOp where
  | idle | kx | en
deriving DecidableEq, Repr

/-- `SEQ.ph` (10_state.md R15): ARK (code 0), SB (1), SR (2), MC (3). -/
inductive Phase where
  | ark | sb | sr | mc
deriving DecidableEq, Repr

/-- The sequencer position `SEQ = (op, rnd, ph)` (10_state.md R15), the stand-in for a program counter. -/
structure Seq where
  op : SeqOp
  rnd : Round
  ph : Phase
deriving DecidableEq, Repr

/-- The position `(IDLE, 0, ARK)`. -/
def Seq.idle : Seq := { op := .idle, rnd := 0, ph := .ark }

/-- A function unit evaluated on its own, with its operands (00_scope.md R8, 95_test_vectors.md P7; assumption log 10). -/
inductive UnitCall where
  | gfmul (a b : Byte)
  | xtime (a : Byte)
  | sbox (b : Byte)
  | kscore (w : Word4) (round : Round)
  | expand (key : Block)
  | encblk (p : Block) (rk : Sched)
deriving DecidableEq, Repr

/-- The result of a function unit, in the type its rule gives it. -/
inductive UnitResult where
  | byte (v : Byte)
  | word (v : Word4)
  | sched (v : Sched)
  | block (v : Block)
deriving DecidableEq, Repr

/-- One turn of the interleaving (00_scope.md R9, 45_commands.md R120; assumption log 6): the core's, one of the host's four
events, or the evaluation of a function unit. -/
inductive Turn where
  /-- the core takes its enabled step, if one is enabled (R112, R113) -/
  | core
  /-- host event `Issue(cmd, din)` -/
  | issue (cmd : BitVec 2) (din : Block)
  /-- host event `ReadStatus` -/
  | readStatus
  /-- host event `ReadDout` -/
  | readDout
  /-- host event `Reset` -/
  | reset
  /-- no agent's move: a function unit is evaluated on operands of its own -/
  | unit (call : UnitCall)
deriving DecidableEq, Repr

/-- What a port returned to the host (45_commands.md R120). -/
inductive Reply where
  | status (v : BitVec 6)
  | dout (v : Block)
deriving DecidableEq, Repr

/-- The state. `rk` to `ecode` are the whole record of 10_state.md R10. `agenda`, `seen`, `unitOut` and `draws` are the
model's own (assumption log 5, 6, 10, 11): no rule of the core reads them. -/
structure State where
  /-- `RK`, the round-key file (R14) -/
  rk : Sched
  /-- `ST`, the working block (R11) -/
  st : Block
  /-- `DOUT`, the output register (R12) -/
  dout : Block
  /-- `SEQ`, the sequencer position (R15) -/
  seq : Seq
  /-- `KRDY` (R16) -/
  krdy : Bool
  /-- `OVLD` (R18) -/
  ovld : Bool
  /-- `ECODE` (R19) -/
  ecode : BitVec 2
  /-- who moves next, and the host's events; when it is empty the host is silent and the core moves -/
  agenda : List Turn
  /-- everything the host has read from the status and dout ports, oldest first -/
  seen : List Reply
  /-- the result of the function unit last evaluated on its own -/
  unitOut : Option UnitResult
  /-- how many draws have been taken -/
  draws : Nat
deriving DecidableEq, Repr

/-- Faults that stop the machine: none. The datapath raises no exception of any kind (60_exceptions.md R150), and a protocol
error is recorded in `ECODE` while the machine goes on (R153), so it is a next state. Safe: nobody raises one, and no claim
passes over one (assumption log 20). -/
inductive Fault where
deriving DecidableEq, Repr

/-- Refusals: only the one for an operation not modelled yet. -/
inductive Refusal where
  /-- Raised by an arm of `exec` whose operation has no meaning yet; no arm raises it now. Safe: the model stops. -/
  | notModelled (mnemonic : String)
deriving DecidableEq, Repr

/-- The machine right after reset (10_state.md R23; power-on is a `Reset`, 70_reset_and_hazards.md R170): idle, `KRDY`,
`OVLD`, `ECODE` zero, `RK`, `ST`, `DOUT` unspecified, hence draws 0..12 (assumption log 1), and nothing from outside yet. -/
def State.reset : State where
  rk := Vector.ofFn fun m => Config.draw m.val []
  st := Config.draw 11 []
  dout := Config.draw 12 []
  seq := Seq.idle
  krdy := false
  ovld := false
  ecode := 0
  agenda := []
  seen := []
  unitOut := none
  draws := 13

end Sys2Proof.Machine
end

