-- ==== Sys2Proof/Machine/Flags.lean ====
section
/-! DEFINITION. The outputs computed from the state: BUSY, ERR and STATUS (10_state.md R17, R19, R20). -/

namespace Sys2Proof.Machine

/-- `BUSY` is `SEQ.op != IDLE` (R17). -/
def State.busy (s : State) : Bool := s.seq.op != .idle

/-- `ERR` is `ECODE != 0` (R19). -/
def State.err (s : State) : Bool := s.ecode != 0

/-- `STATUS` (R20): bits 5:4 ECODE, 3 ERR, 2 OVLD, 1 BUSY, 0 KRDY. -/
def State.status (s : State) : BitVec 6 :=
  s.ecode ++ (BitVec.ofBool s.err ++ (BitVec.ofBool s.ovld ++ (BitVec.ofBool s.busy ++ BitVec.ofBool s.krdy)))

end Sys2Proof.Machine
end

