-- ==== Sys2Proof/Machine/Ops.lean ====
section
/-! DEFINITION. The shared operations on the state: the protocol-error mechanism (the core's only exception,
60_exceptions.md R153), acceptance and completion of the two commands, draws, reset, and what is handed to the outside.

There is no return from an error: "There is nothing to return from" (R154). -/

namespace Sys2Proof.Machine

/-- `E_RSVD` (60_exceptions.md R151). -/
def eRsvd : BitVec 2 := 0b01

/-- `E_BUSY` (60_exceptions.md R151). -/
def eBusy : BitVec 2 := 0b10

/-- `E_NOKEY` (60_exceptions.md R151). -/
def eNokey : BitVec 2 := 0b11

/-- `raise Error(code)` (60_exceptions.md R153): `ECODE` records the first error, nothing else changes. -/
def State.raiseError (s : State) (code : BitVec 2) : State :=
  { s with ecode := if s.ecode = 0 then code else s.ecode }

/-- Acceptance of LDKEY (45_commands.md R122). -/
def State.acceptLdkey (s : State) (key : Block) : State :=
  { s with rk := s.rk.set 0 key, krdy := false, seq := { op := .kx, rnd := 1, ph := .ark } }

/-- Acceptance of ENC (45_commands.md R123). -/
def State.acceptEnc (s : State) (block : Block) : State :=
  { s with st := block, ovld := false, seq := { op := .en, rnd := 0, ph := .ark } }

/-- The sequencer position moves to `(op, rnd, ph)`. -/
def State.goTo (s : State) (op : SeqOp) (rnd : Round) (ph : Phase) : State :=
  { s with seq := { op := op, rnd := rnd, ph := ph } }

/-- `ST <- v`. -/
def State.setSt (s : State) (v : Block) : State := { s with st := v }

/-- `RK[m] <- v`. -/
def State.setRk (s : State) (m : Round) (v : Block) : State := { s with rk := s.rk.set m.val v }

/-- Completion of LDKEY (44_block_encrypt.md R112): `SEQ <- (IDLE, 0, ARK)`, `KRDY <- 1`. -/
def State.completeLdkey (s : State) : State := { s with seq := Seq.idle, krdy := true }

/-- Completion of ENC with the final State `v` (44_block_encrypt.md R113): `SEQ <- (IDLE, 0, ARK)`, `DOUT <- v`,
`OVLD <- 1`. -/
def State.completeEnc (s : State) (v : Block) : State := { s with seq := Seq.idle, dout := v, ovld := true }

/-- The contents of the data registers: what a draw may depend on. -/
def State.dataRegs (s : State) : List Block := s.rk.toList ++ [s.st, s.dout]

/-- The `k`-th of the draws the next operation takes. -/
def State.drawn (s : State) (k : Nat) : Block := Config.draw (s.draws + k) s.dataRegs

/-- The effect of `Reset` (70_reset_and_hazards.md R170, 10_state.md R23): the flags, `ECODE` and `SEQ` at their reset values,
`RK`, `ST` and `DOUT` at thirteen fresh draws. What the outside holds (the agenda, what was read) is not the core's and stays. -/
def State.resetCore (s : State) : State :=
  { s with
    rk := Vector.ofFn fun m => s.drawn m.val
    st := s.drawn 11
    dout := s.drawn 12
    seq := Seq.idle
    krdy := false
    ovld := false
    ecode := 0
    draws := s.draws + 13 }

/-- A port returns a value to the host (45_commands.md R120). -/
def State.replyWith (s : State) (r : Reply) : State := { s with seen := s.seen ++ [r] }

/-- One draw has been taken. -/
def State.countDraw (s : State) : State := { s with draws := s.draws + 1 }

/-- A function unit evaluated on its own delivers its result; no register of the core changes (40_gf_arithmetic.md R75,
41_sbox.md R83). -/
def State.deliver (s : State) (v : UnitResult) : State := { s with unitOut := some v }

end Sys2Proof.Machine
end

