-- ==== Sys2Proof/Machine/Operands.lean ====
section
/-! DEFINITION. Operand assembly (30_encoding.md R54): the nibbles of a byte, State positions, the key-expansion word. -/

namespace Sys2Proof.Machine

/-- `b[7:4]` (R54(a)). -/
def highNibble (b : Byte) : BitVec 4 := b.extractLsb' 4 4

/-- `b[3:0]` (R54(a)). -/
def lowNibble (b : Byte) : BitVec 4 := b.extractLsb' 0 4

/-- The S-box index `16 * b[7:4] + b[3:0]` (R54(a), 20_memory.md R31). -/
def sboxIndex (b : Byte) : Nat := 16 * (highNibble b).toNat + (lowNibble b).toNat

/-- The position `r + 4c` of row `r`, column `c` (R54(b), 10_state.md R11). -/
def position (r c : Fin 4) : Fin 16 := ⟨r.val + 4 * c.val, by omega⟩

/-- The row `i mod 4` of position `i` (R54(b)). -/
def rowOf (i : Fin 16) : Fin 4 := ⟨i.val % 4, Nat.mod_lt _ (by decide)⟩

/-- The column `i div 4` of position `i` (R54(b)). -/
def colOf (i : Fin 16) : Fin 4 := ⟨i.val / 4, by omega⟩

/-- The column `(c + r) mod 4` from which ShiftRows takes the byte of row `r`, column `c` (43_round_transforms.md R102). -/
def rotatedCol (r c : Fin 4) : Fin 4 := ⟨(c.val + r.val) % 4, Nat.mod_lt _ (by decide)⟩

/-- The key-expansion word `(k[12], k[13], k[14], k[15])` (R54(c), 20_memory.md R37). -/
def lastWord (k : Block) : Word4 := #v[k[12], k[13], k[14], k[15]]

end Sys2Proof.Machine
end

