-- ==== Sys2Proof/Machine/Substitution.lean ====
section
/-! DEFINITION. The substitution table (41_sbox.md): SBOX. -/

namespace Sys2Proof.Machine

/-- `SBOX(b) = MemRead(SBOX, 16 * b[7:4] + b[3:0])` (41_sbox.md R80). -/
def sbox (b : Byte) : Byte :=
  sboxRom ⟨sboxIndex b, by
    have h := (highNibble b).isLt
    have l := (lowNibble b).isLt
    unfold sboxIndex
    omega⟩

/-- SBOX as an operation of its own: a lookup has no side effect (R80, R83). -/
def execSbox (b : Byte) (s : State) : Host.Outcome State Fault Refusal :=
  .next (s.deliver (.byte (sbox b)))

end Sys2Proof.Machine
end

