-- ==== Sys2Proof/Machine/KeyExpansion.lean ====
section
/-! DEFINITION. Key expansion (42_key_expansion.md): KSCORE, KEXP with the sequencer step that performs it
(44_block_encrypt.md R112), EXPAND. -/

namespace Sys2Proof.Machine

/-- `KSCORE(w, m)` (R90): rotate left by one byte, substitute every byte, round constant into byte 0 only. -/
def kscore (w : Word4) (m : Round) : Word4 :=
  let r : Word4 := #v[w[1], w[2], w[3], w[0]]
  #v[sbox r[0] ^^^ rcon m, sbox r[1], sbox r[2], sbox r[3]]

/-- Byte `i` of the new round key (R91 steps 3 and 4): `k[i] ^ t[i]` for `i < 4`, then `k[i] ^ n[i-4]` with `n` the NEW
round key. -/
def kexpByte (k : Block) (t : Word4) : (i : Nat) → i < 16 → Byte
  | 0, _ => k[0] ^^^ t[0]
  | 1, _ => k[1] ^^^ t[1]
  | 2, _ => k[2] ^^^ t[2]
  | 3, _ => k[3] ^^^ t[3]
  | i + 4, h => k[i + 4] ^^^ kexpByte k t i (by omega)

/-- `KEXP(k, m)`: round key `m` from round key `m - 1` (R91). -/
def kexp (k : Block) (m : Round) : Block :=
  Vector.ofFn fun i => kexpByte k (kscore (lastWord k) m) i.val i.isLt

/-- Round key `m` of the schedule of `key` (R92). -/
def roundKey (key : Block) : (m : Nat) → m < 11 → Block
  | 0, _ => key
  | m + 1, h => kexp (roundKey key m (by omega)) ⟨m + 1, h⟩

/-- `EXPAND(key)`: the 11 round keys (R92). -/
def expand (key : Block) : Sched := Vector.ofFn fun m => roundKey key m.val m.isLt

/-- KSCORE as an operation of its own (R90). -/
def execKscore (w : Word4) (round : Round) (s : State) : Host.Outcome State Fault Refusal :=
  .next (s.deliver (.word (kscore w round)))

/-- The core step of key expansion (44_block_encrypt.md R112), enabled exactly when `SEQ = (KX, m, ARK)`, `m` in 1..10.
A step that is not enabled is not taken: the state stays (assumption log 7, 8). -/
def execKexp (m : Round) (s : State) : Host.Outcome State Fault Refusal :=
  if s.seq = { op := .kx, rnd := m, ph := .ark } ∧ 1 ≤ m.val then
    let written := s.setRk m (kexp (s.rk[m.val - 1]) m)
    if h : m.val < 10 then .next (written.goTo .kx ⟨m.val + 1, by omega⟩ .ark)
    else .next written.completeLdkey
  else .next s

/-- EXPAND as an operation of its own (R92). -/
def execExpand (key : Block) (s : State) : Host.Outcome State Fault Refusal :=
  .next (s.deliver (.sched (expand key)))

end Sys2Proof.Machine
end

