-- ==== Sys2Proof/Machine/Galois.lean ====
section
/-! DEFINITION. Galois-field arithmetic (40_gf_arithmetic.md): GFMUL and XTIME. -/

namespace Sys2Proof.Machine

/-- The loop of 40_gf_arithmetic.md R70, `n` iterations left, on `(p, a, b)`. -/
def gfmulLoop : Nat → Byte → Byte → Byte → Byte
  | 0, p, _, _ => p
  | n + 1, p, a, b =>
    let p' := if b.getLsbD 0 then p ^^^ a else p
    let b' := b >>> 1
    let carry := a.getLsbD 7
    let a' := a <<< 1
    gfmulLoop n p' (if carry then a' ^^^ 0x1B else a') b'

/-- `GFMUL(a, b)`: 8 iterations from `p = 0x00` (R70). -/
def gfmul (a b : Byte) : Byte := gfmulLoop 8 0x00 a b

/-- `XTIME(x) = ((x << 1) & 0xFF) ^ (0x1B if x[7] = 1 else 0x00)` (R73). -/
def xtime (x : Byte) : Byte := (x <<< 1) ^^^ (if x.getLsbD 7 then 0x1B else 0x00)

/-- GFMUL as an operation of its own: the unit delivers the product and no register changes (R70, R75). -/
def execGfmul (a b : Byte) (s : State) : Host.Outcome State Fault Refusal :=
  .next (s.deliver (.byte (gfmul a b)))

/-- XTIME as an operation of its own (R73). -/
def execXtime (a : Byte) (s : State) : Host.Outcome State Fault Refusal :=
  .next (s.deliver (.byte (xtime a)))

end Sys2Proof.Machine
end

