-- ==== Sys2Proof/Machine/RoundTransforms.lean ====
section
/-! DEFINITION. The four round transforms (43_round_transforms.md) and the sequencer steps that perform them
(44_block_encrypt.md R113). Every transform is a function of the whole old State (R105). -/

namespace Sys2Proof.Machine

/-- `ARK(s, k)`: byte-wise exclusive-or (R100). -/
def ark (s k : Block) : Block := Vector.ofFn fun i => s[i] ^^^ k[i]

/-- `SB(s)`: every byte through the S-box (R101). -/
def sb (s : Block) : Block := Vector.ofFn fun i => sbox s[i]

/-- `SR(s)`: `s'[r + 4c] <- s[r + 4((c + r) mod 4)]` (R102). -/
def sr (s : Block) : Block := Vector.ofFn fun i => s[position (rowOf i) (rotatedCol (rowOf i) (colOf i))]

/-- One term of MixColumns: `GFMUL(MIXM[k][j], s[j + 4c])` (R103). -/
def mcTerm (s : Block) (k c j : Fin 4) : Byte := gfmul (mixm k j) s[position j c]

/-- `MC(s)`: `s'[k + 4c] <- XOR over j = 0..3 of GFMUL(MIXM[k][j], s[j + 4c])` (R103). -/
def mc (s : Block) : Block := Vector.ofFn fun i =>
  mcTerm s (rowOf i) (colOf i) 0 ^^^ mcTerm s (rowOf i) (colOf i) 1 ^^^
    mcTerm s (rowOf i) (colOf i) 2 ^^^ mcTerm s (rowOf i) (colOf i) 3

/-- The core step at `(EN, r, ARK)` (R100, R113). At `r = 10` it completes the ENC: `DOUT` receives the State after this
transform, in the same step. A step that is not enabled is not taken (assumption log 8). -/
def execArk (r : Round) (s : State) : Host.Outcome State Fault Refusal :=
  if s.seq = { op := .en, rnd := r, ph := .ark } then
    let st' := ark s.st s.rk[r]
    if h : r.val < 10 then .next ((s.setSt st').goTo .en ⟨r.val + 1, by omega⟩ .sb)
    else .next ((s.setSt st').completeEnc st')
  else .next s

/-- The core step at `(EN, r, SB)` (R101, R113; assumption log 8, 9). -/
def execSb (r : Round) (s : State) : Host.Outcome State Fault Refusal :=
  if s.seq = { op := .en, rnd := r, ph := .sb } then .next ((s.setSt (sb s.st)).goTo .en r .sr)
  else .next s

/-- The core step at `(EN, r, SR)`: MC is next, but at `r = 10` ARK (R102, R113; assumption log 8, 9). -/
def execSr (r : Round) (s : State) : Host.Outcome State Fault Refusal :=
  if s.seq = { op := .en, rnd := r, ph := .sr } then
    .next ((s.setSt (sr s.st)).goTo .en r (if r.val < 10 then .mc else .ark))
  else .next s

/-- The core step at `(EN, r, MC)` (R103, R113; assumption log 8, 9). -/
def execMc (r : Round) (s : State) : Host.Outcome State Fault Refusal :=
  if s.seq = { op := .en, rnd := r, ph := .mc } then .next ((s.setSt (mc s.st)).goTo .en r .ark)
  else .next s

end Sys2Proof.Machine
end

