-- ==== Sys2Proof/Machine/BlockEncrypt.lean ====
section
/-! DEFINITION. Encryption of one block (44_block_encrypt.md R110) and the same computation as the list of forty steps
(R111). -/

namespace Sys2Proof.Machine

/-- The State after the initial AddRoundKey and `n` full rounds (R110 steps 1 and 2). -/
def fullRounds (p : Block) (rk : Sched) : (n : Nat) → n < 11 → Block
  | 0, _ => ark p rk[0]
  | n + 1, h => ark (mc (sr (sb (fullRounds p rk n (by omega))))) rk[n + 1]

/-- `ENCBLK(p, rk)` (R110): AddRoundKey, nine rounds, a final round without MixColumns. -/
def encBlk (p : Block) (rk : Sched) : Block := ark (sr (sb (fullRounds p rk 9 (by decide)))) rk[10]

/-- The transform that `SEQ = (EN, r, ph)` selects, applied to a State (R111). -/
def transformAt (rk : Sched) (r : Round) (ph : Phase) (st : Block) : Block :=
  match ph with
  | .ark => ark st rk[r]
  | .sb => sb st
  | .sr => sr st
  | .mc => mc st

/-- The position of step `n + 1` of the forty (R111): step 1 is `(EN, 0, ARK)`; steps `4r-2 .. 4r+1` are round `r`'s SB, SR,
MC, ARK; steps 38, 39, 40 are round 10's SB, SR, ARK. -/
def encPosition (n : Nat) : Round × Phase :=
  if n = 0 then (0, .ark)
  else if n = 39 then (10, .ark)
  else (⟨((n + 3) / 4) % 11, Nat.mod_lt _ (by decide)⟩,
    if n % 4 = 1 then .sb else if n % 4 = 2 then .sr else if n % 4 = 3 then .mc else .ark)

/-- The State after `n` of the forty steps of encrypting `p` under `rk` (R111). -/
def stateAfter (p : Block) (rk : Sched) : Nat → Block
  | 0 => p
  | n + 1 => transformAt rk (encPosition n).1 (encPosition n).2 (stateAfter p rk n)

/-- ENCBLK as an operation of its own (R110). -/
def execEncblk (p : Block) (rk : Sched) (s : State) : Host.Outcome State Fault Refusal :=
  .next (s.deliver (.block (encBlk p rk)))

end Sys2Proof.Machine
end

