-- ==== Sys2Proof/Machine/Commands.lean ====
section
/-! DEFINITION. The host commands (45_commands.md R121 to R125). Each meaning tests the conditions in the order of R125. -/

namespace Sys2Proof.Machine

/-- NOP: no state change in any state (R121). `din` is ignored. -/
def execNop (_din : Block) (s : State) : Host.Outcome State Fault Refusal := .next s

/-- LDKEY (R122): rejected with `E_BUSY` while busy, else accepted. -/
def execLdkey (din : Block) (s : State) : Host.Outcome State Fault Refusal :=
  if s.busy then .next (s.raiseError eBusy)
  else .next (s.acceptLdkey din)

/-- ENC (R123): rejected with `E_BUSY` while busy, else with `E_NOKEY` without a schedule, else accepted. -/
def execEnc (din : Block) (s : State) : Host.Outcome State Fault Refusal :=
  if s.busy then .next (s.raiseError eBusy)
  else if s.krdy then .next (s.acceptEnc din)
  else .next (s.raiseError eNokey)

/-- The reserved code (R124): always `E_RSVD`, nothing else changes. `din` is ignored. -/
def execRsvd (_din : Block) (s : State) : Host.Outcome State Fault Refusal :=
  .next (s.raiseError eRsvd)

end Sys2Proof.Machine
end

