-- ==== Sys2Proof/Machine/Ports.lean ====
section
/-! DEFINITION. The host's port events that are not commands (45_commands.md R120, 70_reset_and_hazards.md R170). -/

namespace Sys2Proof.Machine

/-- ReadStatus: the host is given `STATUS`; nothing of the core changes (R120, R20). -/
def execRdstat (s : State) : Host.Outcome State Fault Refusal := .next (s.replyWith (.status s.status))

/-- ReadDout: the host is given `DOUT` if `OVLD = 1`, otherwise a draw; nothing of the core changes (R120, R12; assumption
log 3). -/
def execRdout (s : State) : Host.Outcome State Fault Refusal :=
  if s.ovld then .next (s.replyWith (.dout s.dout))
  else .next (s.countDraw.replyWith (.dout (s.drawn 0)))

/-- Reset, in any state (R170; assumption log 2). -/
def execReset (s : State) : Host.Outcome State Fault Refusal := .next s.resetCore

end Sys2Proof.Machine
end

