-- ==== Sys2Proof/Syntax.lean ====
section
/-! DEFINITION. The operations of the core (00_scope.md R8, 30_encoding.md R59): one constructor per row of
spec/opcode_table.json. -/

namespace Sys2Proof

/-- The operations of AES128-CORE: four host commands (format CMD), three port events (PORT), five sequencer
micro-operations (UOP, each with the `rnd` field of the sequencer position that selects it) and six function units (FUNC,
each with its operands). NOP and RSVD keep the `din` bits that their meaning ignores, so that decoding drops no bit of the
command word (assumption log 14). -/
inductive Instr where
  /-- NOP, `cmd = 00` (R121). -/
  | nop (din : Block)
  /-- LDKEY, `cmd = 01` (R122). -/
  | ldkey (din : Block)
  /-- ENC, `cmd = 10` (R123). -/
  | enc (din : Block)
  /-- the reserved code, `cmd = 11` (R124). -/
  | rsvd (din : Block)
  /-- RDSTAT, host event ReadStatus (R120, R20). -/
  | rdstat
  /-- RDOUT, host event ReadDout (R120, R12). -/
  | rdout
  /-- RESET, host event Reset (R170). -/
  | reset
  /-- KEXP at `(KX, m, ARK)` (R91, R112). -/
  | kexp (m : Round)
  /-- ARK at `(EN, r, ARK)` (R100, R113). -/
  | ark (r : Round)
  /-- SB at `(EN, r, SB)` (R101, R113). -/
  | sb (r : Round)
  /-- SR at `(EN, r, SR)` (R102, R113). -/
  | sr (r : Round)
  /-- MC at `(EN, r, MC)` (R103, R113). -/
  | mc (r : Round)
  /-- GFMUL(a, b) (R70). -/
  | gfmul (a b : Byte)
  /-- XTIME(a) (R73). -/
  | xtime (a : Byte)
  /-- SBOX(b) (R80). -/
  | sbox (b : Byte)
  /-- KSCORE(w, round) (R90). -/
  | kscore (w : Word4) (round : Round)
  /-- EXPAND(key) (R92). -/
  | expand (key : Block)
  /-- ENCBLK(p, rk) (R110). -/
  | encblk (p : Block) (rk : Sched)
deriving DecidableEq, Repr

end Sys2Proof
end

