-- ==== Sys2Proof/Machine/Dispatch.lean ====
section
/-! DEFINITION. One arm per operation, each one direct call of its meaning. -/

namespace Sys2Proof.Machine

def exec (i : Instr) (s : State) : Host.Outcome State Fault Refusal :=
  match i with
  | .nop din => Sys2Proof.Machine.execNop din s
  | .ldkey din => Sys2Proof.Machine.execLdkey din s
  | .enc din => Sys2Proof.Machine.execEnc din s
  | .rsvd din => Sys2Proof.Machine.execRsvd din s
  | .rdstat => Sys2Proof.Machine.execRdstat s
  | .rdout => Sys2Proof.Machine.execRdout s
  | .reset => Sys2Proof.Machine.execReset s
  | .kexp m => Sys2Proof.Machine.execKexp m s
  | .ark r => Sys2Proof.Machine.execArk r s
  | .sb r => Sys2Proof.Machine.execSb r s
  | .sr r => Sys2Proof.Machine.execSr r s
  | .mc r => Sys2Proof.Machine.execMc r s
  | .gfmul a b => Sys2Proof.Machine.execGfmul a b s
  | .xtime a => Sys2Proof.Machine.execXtime a s
  | .sbox b => Sys2Proof.Machine.execSbox b s
  | .kscore w round => Sys2Proof.Machine.execKscore w round s
  | .expand key => Sys2Proof.Machine.execExpand key s
  | .encblk p rk => Sys2Proof.Machine.execEncblk p rk s

end Sys2Proof.Machine
end

