-- ==== Sys2Proof/WellFormed.lean ====
section
/-! DEFINITION. The formats of the table's rows, and the operand ranges the spec gives the operations (spec/opcode_table.json's source fields, 10_state.md R15,
42_key_expansion.md R90, R91). Every 16-byte `din` is legal (30_encoding.md R52). -/

namespace Sys2Proof

/-- The table's formats (R59). -/
inductive Format where
  | cmd | port | uop | func
deriving DecidableEq, Repr

/-- The format of each operation's row (R59: 4 CMD, 3 PORT, 5 UOP, 6 FUNC). -/
def Instr.format : Instr → Format
  | .nop _ | .ldkey _ | .enc _ | .rsvd _ => .cmd
  | .rdstat | .rdout | .reset => .port
  | .kexp _ | .ark _ | .sb _ | .sr _ | .mc _ => .uop
  | .gfmul _ _ | .xtime _ | .sbox _ | .kscore _ _ | .expand _ | .encblk _ _ => .func

/-- Operands in the range their rule gives: KEXP `m` 1..10 (R112), ARK `r` 0..10, SB and SR `r` 1..10, MC `r` 1..9 (R15,
R100 to R103), KSCORE `m` 1..10 (R90). -/
def Instr.wellFormed : Instr → Bool
  | .kexp m => decide (1 ≤ m.val)
  | .sb r => decide (1 ≤ r.val)
  | .sr r => decide (1 ≤ r.val)
  | .mc r => decide (1 ≤ r.val) && decide (r.val ≤ 9)
  | .kscore _ m => decide (1 ≤ m.val)
  | .nop _ | .ldkey _ | .enc _ | .rsvd _ => true
  | .rdstat | .rdout | .reset => true
  | .ark _ => true
  | .gfmul _ _ | .xtime _ | .sbox _ | .expand _ | .encblk _ _ => true

end Sys2Proof
end

