-- ==== Sys2Proof/Decode.lean ====
section
/-! DEFINITION. The two encodings of the spec and their decoder: the 130-bit command word `CW` (30_encoding.md R50, R51) and
the 8-bit reference word of the sequencer position (R59). PORT and FUNC operations have no encoding (R56, R59).

The hardware stores no instructions (10_state.md R15), so the byte stream is the model's own (assumption log 12): a command
is `CW` zero-extended to 136 bits, most significant byte first, which is one byte `000000cc` and then `din` bytes 0..15
(20_memory.md R36); a micro-operation is its one reference byte. The first byte's top two bits tell them apart, because a
reference word's `op` is 01 or 10. -/

namespace Sys2Proof

/-- The block whose byte `i` is entry `i` of a byte list in stream order (20_memory.md R35). A missing entry reads as zero:
the decoder checks the length first, the host's padding relies on it (46_host_driver.md R137). -/
def Block.ofBytes (l : List Byte) : Block := Vector.ofFn fun i => l.getD i.val 0

/-- The block carried by a 128-bit vector: byte `i` is bits `[127-8i : 120-8i]` (20_memory.md R36). -/
def Block.ofBits (v : BitVec 128) : Block := Vector.ofFn fun i => v.extractLsb' (120 - 8 * i.val) 8

/-- The 128-bit vector of a block, byte 0 most significant (20_memory.md R36). -/
def Block.toBits (b : Block) : BitVec 128 :=
  b[0] ++ (b[1] ++ (b[2] ++ (b[3] ++ (b[4] ++ (b[5] ++ (b[6] ++ (b[7] ++
    (b[8] ++ (b[9] ++ (b[10] ++ (b[11] ++ (b[12] ++ (b[13] ++ (b[14] ++ b[15]))))))))))))))

/-- The command word `CW`: `cmd = CW[129:128]`, `din = CW[127:0]` (30_encoding.md R50). -/
def commandWord (cmd : BitVec 2) (din : Block) : BitVec 130 := cmd ++ Block.toBits din

/-- The command word as bytes: `000000cc`, then `din` byte 0 first. -/
def commandBytes (cmd : BitVec 2) (din : Block) : List Byte := (0#6 ++ cmd : BitVec 8) :: din.toList

/-- The reference word `op[7:6] rnd[5:2] ph[1:0]` (30_encoding.md R59, codes of 10_state.md R15). -/
def refWord (op : BitVec 2) (rnd : Round) (ph : BitVec 2) : Byte := op ++ (BitVec.ofNat 4 rnd.val ++ ph : BitVec 6)

/-- Why the decoder refuses a byte stream. -/
inductive DecodeError where
  /-- no byte to read -/
  | emptyStream
  /-- `op = 00` (IDLE selects no micro-operation) with a bit of `[5:2]` set, which is no command code either -/
  | noSuchCommand
  /-- a command whose 16 operand bytes are not all there (every operand is exactly 16 bytes, 20_memory.md R38) -/
  | operandTooShort
  /-- `op = 01` with `ph` other than 00: no row of the table (R59) -/
  | noSuchMicroOp
  /-- a `rnd` field of 11..15: `rnd` is 0..10 (10_state.md R15) -/
  | roundOutOfRange
  /-- `op = 11`: no such code (10_state.md R15) -/
  | noSuchOp
deriving DecidableEq, Repr

/-- The code map of 30_encoding.md R51. -/
def decodeCommand (cmd : BitVec 2) (din : Block) : Instr :=
  if cmd = 0b00 then .nop din
  else if cmd = 0b01 then .ldkey din
  else if cmd = 0b10 then .enc din
  else .rsvd din

/-- The UOP rows of 30_encoding.md R59: `KEXP 01rrrr00`, `ARK 10rrrr00`, `SB 10rrrr01`, `SR 10rrrr10`, `MC 10rrrr11`. -/
def decodeMicroOp (word : Byte) : Except DecodeError Instr :=
  let op := word.extractLsb' 6 2
  let ph := word.extractLsb' 0 2
  if h : (word.extractLsb' 2 4).toNat < 11 then
    let rnd : Round := ⟨(word.extractLsb' 2 4).toNat, h⟩
    if op = 0b01 then
      if ph = 0b00 then .ok (.kexp rnd) else .error .noSuchMicroOp
    else if op = 0b10 then
      if ph = 0b00 then .ok (.ark rnd)
      else if ph = 0b01 then .ok (.sb rnd)
      else if ph = 0b10 then .ok (.sr rnd)
      else .ok (.mc rnd)
    else .error .noSuchOp
  else .error .roundOutOfRange

/-- The decoder, total on any bytes: the operation read and the bytes after it, or a refusal by name. -/
def decode : List Byte → Except DecodeError (Instr × List Byte)
  | [] => .error .emptyStream
  | head :: rest =>
    if head.extractLsb' 6 2 = 0b00 then
      if head.extractLsb' 2 4 = 0 then
        if rest.length < 16 then .error .operandTooShort
        else .ok (decodeCommand (head.extractLsb' 0 2) (Block.ofBytes rest), rest.drop 16)
      else .error .noSuchCommand
    else
      match decodeMicroOp head with
      | .ok i => .ok (i, rest)
      | .error e => .error e

/-- The bytes of an operation; `none` for PORT and FUNC operations, which have no encoding (R56, R59). -/
def encode : Instr → Option (List Byte)
  | .nop din => some (commandBytes 0b00 din)
  | .ldkey din => some (commandBytes 0b01 din)
  | .enc din => some (commandBytes 0b10 din)
  | .rsvd din => some (commandBytes 0b11 din)
  | .kexp m => some [refWord 0b01 m 0b00]
  | .ark r => some [refWord 0b10 r 0b00]
  | .sb r => some [refWord 0b10 r 0b01]
  | .sr r => some [refWord 0b10 r 0b10]
  | .mc r => some [refWord 0b10 r 0b11]
  | .rdstat => none
  | .rdout => none
  | .reset => none
  | .gfmul _ _ => none
  | .xtime _ => none
  | .sbox _ => none
  | .kscore _ _ => none
  | .expand _ => none
  | .encblk _ _ => none

/-- The 17 bytes (the longest operation) of an operation whose bits are `w`, numbered from the least significant bit of the
first byte; bits at and above `nbits` are zero (assumption log 13). -/
def tableBytes (nbits w : Nat) : List Byte :=
  (List.range 17).map fun k => BitVec.ofNat 8 ((w % 2 ^ nbits) / 2 ^ (8 * k))

/-- What the decoder reads from a word of spec/opcode_table.json, its bits numbered as the table numbers them. -/
def decodeTableWord (nbits w : Nat) : Option Instr :=
  match decode (tableBytes nbits w) with
  | .ok (i, _) => some i
  | .error _ => none

end Sys2Proof
end

