-- ==== Sys2Proof/Machine/Fetch.lean ====
section
/-! DEFINITION. What the machine does next: whose turn it is, the word that selects the operation, and the operation. The
core fetches nothing (10_state.md R15); a command's word is what the host presents (30_encoding.md R50), and a
micro-operation's word is the sequencer position itself (R59). -/

namespace Sys2Proof.Machine

/-- The reference code of `SEQ.op` (10_state.md R15). -/
def SeqOp.code : SeqOp → BitVec 2
  | .idle => 0b00
  | .kx => 0b01
  | .en => 0b10

/-- The reference code of `SEQ.ph` (10_state.md R15). -/
def Phase.code : Phase → BitVec 2
  | .ark => 0b00
  | .sb => 0b01
  | .sr => 0b10
  | .mc => 0b11

/-- The reference word of a sequencer position (30_encoding.md R59). -/
def Seq.word (q : Seq) : Byte := refWord q.op.code q.rnd q.ph.code

/-- Whose turn it is: the head of the agenda, or the core's when the host is silent (assumption log 6). -/
def State.turn (s : State) : Turn := s.agenda.headD .core

/-- The turn is taken. -/
def State.popTurn (s : State) : State := { s with agenda := s.agenda.tail }

/-- The bytes of the word that selects the next operation: `cmd` and `din` as the host presents them, or the sequencer
position of a busy core. An idle core selects nothing (70_reset_and_hazards.md R171), and port events and function units have
no word. -/
def State.nextWord (s : State) : Option (List Byte) :=
  match s.turn with
  | .core => if s.busy then some [s.seq.word] else none
  | .issue cmd din => some (commandBytes cmd din)
  | .readStatus => none
  | .readDout => none
  | .reset => none
  | .unit _ => none

/-- The operation of a function unit. -/
def UnitCall.instr : UnitCall → Instr
  | .gfmul a b => .gfmul a b
  | .xtime a => .xtime a
  | .sbox b => .sbox b
  | .kscore w m => .kscore w m
  | .expand k => .expand k
  | .encblk p rk => .encblk p rk

/-- The operation that has no word, for the turns that have none (30_encoding.md R59, formats PORT and FUNC). -/
def Turn.wordless : Turn → Option Instr
  | .core => none
  | .issue _ _ => none
  | .readStatus => some .rdstat
  | .readDout => some .rdout
  | .reset => some .reset
  | .unit call => some call.instr

/-- The operation performed next: what the decoder reads from the selecting word, or the port event or function unit of the
turn. `none` when no operation is selected: an idle core, or a position that is no row of the table (assumption log 7). -/
def State.nextOp (s : State) : Option Instr :=
  match s.nextWord with
  | some bytes =>
    match decode bytes with
    | .ok (i, _) => some i
    | .error _ => none
  | none => s.turn.wordless

/-- The state in which the very next step performs `i`: a command or port event is put at the head of the agenda as the
host's event; a micro-operation is selected by `SEQ`, with the core's turn first; a function unit is given the turn. -/
def State.place (s : State) (i : Instr) : State :=
  match i with
  | .nop din => { s with agenda := .issue 0b00 din :: s.agenda }
  | .ldkey din => { s with agenda := .issue 0b01 din :: s.agenda }
  | .enc din => { s with agenda := .issue 0b10 din :: s.agenda }
  | .rsvd din => { s with agenda := .issue 0b11 din :: s.agenda }
  | .rdstat => { s with agenda := .readStatus :: s.agenda }
  | .rdout => { s with agenda := .readDout :: s.agenda }
  | .reset => { s with agenda := .reset :: s.agenda }
  | .kexp m => { s with agenda := .core :: s.agenda, seq := { op := .kx, rnd := m, ph := .ark } }
  | .ark r => { s with agenda := .core :: s.agenda, seq := { op := .en, rnd := r, ph := .ark } }
  | .sb r => { s with agenda := .core :: s.agenda, seq := { op := .en, rnd := r, ph := .sb } }
  | .sr r => { s with agenda := .core :: s.agenda, seq := { op := .en, rnd := r, ph := .sr } }
  | .mc r => { s with agenda := .core :: s.agenda, seq := { op := .en, rnd := r, ph := .mc } }
  | .gfmul a b => { s with agenda := .unit (.gfmul a b) :: s.agenda }
  | .xtime a => { s with agenda := .unit (.xtime a) :: s.agenda }
  | .sbox b => { s with agenda := .unit (.sbox b) :: s.agenda }
  | .kscore w m => { s with agenda := .unit (.kscore w m) :: s.agenda }
  | .expand k => { s with agenda := .unit (.expand k) :: s.agenda }
  | .encblk p rk => { s with agenda := .unit (.encblk p rk) :: s.agenda }

/-- `place` for a word of the opcode table; a word the decoder refuses is one that no port and no sequencer position can
hold, and changes nothing. -/
def State.placeWord (s : State) (nbits w : Nat) : State :=
  match decodeTableWord nbits w with
  | some i => s.place i
  | none => s

end Sys2Proof.Machine
end

