-- ==== Sys2Proof/Machine/Step.lean ====
section
/-! DEFINITION. One step: the turn at the head of the agenda is taken and the operation it selects performed. -/

namespace Sys2Proof.Machine

/-- One step of the machine (00_scope.md R9). A turn that selects no operation changes nothing but the agenda. -/
def step (s : State) : Host.Outcome State Fault Refusal :=
  match s.nextOp with
  | some i => exec i s.popTurn
  | none => .next s.popTurn

/-- `s` with the table's word placed so that the very next step performs it (assumption log 17). -/
def State.withFetchWord (s : State) (nbits w : Nat) : State := s.placeWord nbits w

end Sys2Proof.Machine
end

