-- ==== Sys2Proof/Machine/HostDriver.lean ====
section
/-! DEFINITION. The host's side (46_host_driver.md; 30_encoding.md R55, R58): key parsing, zero padding, `ENCSTREAM` as a
function and as the turns of one interleaving. The host that waits on STATUS, in every interleaving, is in HostScript.lean. It
stands outside the hardware block (00_scope.md R3, 90_conflicts.md C1) and no step of the machine uses it. -/

namespace Sys2Proof.Machine

/-- The value of a hexadecimal digit, `none` for any other character (R55). -/
def hexValue (c : Char) : Option (BitVec 4) :=
  let n := c.toNat
  if 48 ≤ n ∧ n ≤ 57 then some (BitVec.ofNat 4 (n - 48))
  else if 97 ≤ n ∧ n ≤ 102 then some (BitVec.ofNat 4 (n - 87))
  else if 65 ≤ n ∧ n ≤ 70 then some (BitVec.ofNat 4 (n - 55))
  else none

/-- Bytes of a hex string, two digits per byte, most-significant nibble first (R55). -/
def hexBytes : List Char → Option (List Byte)
  | [] => some []
  | [_] => none
  | hi :: lo :: rest =>
    match hexValue hi, hexValue lo, hexBytes rest with
    | some h, some l, some bs => some ((h ++ l : BitVec 8) :: bs)
    | _, _, _ => none

/-- The 16-byte key of a 32-character hexadecimal string; `none` is the host's "Malformed key", which never reaches the core
(R55, R141). -/
def parseKey (text : List Char) : Option Block :=
  if text.length = 32 then (hexBytes text).map Block.ofBytes else none

/-- `ceil(L / 16)`, the number of blocks of an `L`-byte plaintext (R136, R138). -/
def blockCount (len : Nat) : Nat := (len + 15) / 16

/-- The blocks `B_q` of a plaintext: consecutive 16-byte chunks, the last padded on the right with zero bytes (R136, R137). -/
def streamBlocks (plain : List Byte) : List Block :=
  (List.range (blockCount plain.length)).map fun q => Block.ofBytes (plain.drop (16 * q))

/-- `ENCSTREAM(key, P)` as a function: the ciphertext bytes (R136). -/
def encStream (key : Block) (plain : List Byte) : List Byte :=
  (streamBlocks plain).flatMap fun b => (encBlk b (expand key)).toList

/-- One interleaving of a `WAIT` (R58) that begins `steps` core steps before the core is idle: the core's turns, then the one
read of STATUS, which shows `BUSY = 0`. The `WAIT` itself, which reads as often as it takes, is `waitScript`
(assumption log 19). -/
def waitTurns (steps : Nat) : List Turn := List.replicate steps .core ++ [.readStatus]

/-- `SETKEY` (`setKeyScript`) on an idle core in that interleaving: LDKEY and its ten steps, then the read. -/
def setKeyTurns (key : Block) : List Turn := .issue 0b01 key :: waitTurns 10

/-- `ENCRYPT` (`encryptScript`) on an idle core in that interleaving: ENC, its forty steps, the read, ReadDout. -/
def encryptTurns (block : Block) : List Turn := .issue 0b10 block :: (waitTurns 40 ++ [.readDout])

/-- `ENCSTREAM` (`encStreamScript`) on an idle core in that interleaving. -/
def streamTurns (key : Block) (plain : List Byte) : List Turn :=
  setKeyTurns key ++ (streamBlocks plain).flatMap encryptTurns

/-- The blocks the host has read from `dout`. -/
def doutReads : List Reply → List Block
  | [] => []
  | .status _ :: rest => doutReads rest
  | .dout v :: rest => v :: doutReads rest

end Sys2Proof.Machine
end

