-- ==== Sys2Proof/Machine/HostScript.lean ====
section
/-! DEFINITION. A host that reads before it goes on (30_encoding.md R57, R58; 46_host_driver.md R136): its script with the waits
on STATUS, and host and core moving in any interleaving (00_scope.md R9, 93_implementation_defined.md U15). It stands outside
the hardware block (00_scope.md R3): `step` does not use it, and it uses `step` for everything the core does. -/

namespace Sys2Proof.Machine

/-- What a host waits for: `BUSY = 0` (R58), `KRDY = 1`, `OVLD = 1` (R136). -/
inductive Awaited where
  | idle | keyReady | outputValid
deriving DecidableEq, Repr

/-- The word read from the status port shows what is waited for (bits of 10_state.md R20). -/
def Awaited.shownBy (c : Awaited) (status : BitVec 6) : Bool :=
  match c with
  | .idle => !status.getLsbD 1
  | .keyReady => status.getLsbD 0
  | .outputValid => status.getLsbD 2

/-- A line of the host's trace (R57), and the wait on a flag (R58, R136). -/
inductive HostAction where
  | issue (cmd : BitVec 2) (din : Block)
  | readStatus
  | readDout
  | reset
  /-- repeat `RDSTAT` until the word read shows `c` -/
  | wait (c : Awaited)
deriving DecidableEq, Repr

/-- The port event of an action; a wait issues no command, it reads STATUS (R58). -/
def HostAction.turn : HostAction → Turn
  | .issue cmd din => .issue cmd din
  | .readStatus => .readStatus
  | .readDout => .readDout
  | .reset => .reset
  | .wait _ => .readStatus

/-- Whether the host goes on to its next action, given all it has read: a wait is repeated until the word last read shows what
is waited for. -/
def HostAction.finished (a : HostAction) (seen : List Reply) : Bool :=
  match a with
  | .wait c =>
    match seen.getLast? with
    | some (.status v) => c.shownBy v
    | some (.dout _) => false
    | none => false
  | .issue _ _ | .readStatus | .readDout | .reset => true

/-- The host's remaining script beside the core. -/
structure Session where
  script : List HostAction
  core : State
deriving DecidableEq, Repr

/-- The two agents (00_scope.md R9). -/
inductive Mover where
  | core | host
deriving DecidableEq, Repr

/-- The machine takes this turn now; its agenda waits. -/
def State.takeTurn (s : State) (t : Turn) : Host.Outcome State Fault Refusal := step { s with agenda := t :: s.agenda }

/-- The session goes on with the state a step answers, `script` saying what is left of the host's script. -/
def Session.resume (script : State → List HostAction) :
    Host.Outcome State Fault Refusal → Host.Outcome Session Fault Refusal
  | .next t => .next { script := script t, core := t }
  | .fault f => .fault f
  | .refused r => .refused r

/-- One move of an agent: the core's turn, or the event of the host's first action; a host at the end of its script is silent. -/
def Session.move (d : Session) : Mover → Host.Outcome Session Fault Refusal
  | .core => Session.resume (fun _ => d.script) (d.core.takeTurn .core)
  | .host =>
    match d.script with
    | [] => .next d
    | a :: rest => Session.resume (fun t => if a.finished t.seen then rest else a :: rest) (d.core.takeTurn a.turn)

/-- The moves of an interleaving in order. -/
def Session.moves : List Mover → Session → Host.Outcome Session Fault Refusal
  | [], d => .next d
  | m :: ms, d =>
    match d.move m with
    | .next e => Session.moves ms e
    | .fault f => .fault f
    | .refused r => .refused r

/-- `WAIT` (R58): repeat `RDSTAT` until `BUSY = 0`. -/
def waitScript : List HostAction := [.wait .idle]

/-- `SETKEY` (R58). -/
def setKeyScript (key : Block) : List HostAction := .issue 0b01 key :: waitScript

/-- `ENCRYPT` (R58). -/
def encryptScript (block : Block) : List HostAction := .issue 0b10 block :: (waitScript ++ [.readDout])

/-- `ENCSTREAM` (R58). -/
def encStreamScript (key : Block) (plain : List Byte) : List HostAction :=
  setKeyScript key ++ (streamBlocks plain).flatMap encryptScript

/-- `ENCSTREAM <key hex> <n bytes of hex>` from its text (R55, R58); `none` for a malformed key or text. -/
def encStreamText (key plain : List Char) : Option (List HostAction) :=
  match parseKey key, hexBytes plain with
  | some k, some p => some (encStreamScript k p)
  | _, _ => none

/-- The driver's commands as R136 gives them: `LDKEY key`, wait for `KRDY = 1`; for each block `ENC`, wait for `OVLD = 1`,
`ReadDout`. -/
def driverScript (key : Block) (plain : List Byte) : List HostAction :=
  [.issue 0b01 key, .wait .keyReady] ++
    (streamBlocks plain).flatMap fun b => [.issue 0b10 b, .wait .outputValid, .readDout]

/-- An interleaving in which neither agent is left out for good. For a busy core this is the spec's one liveness assumption
(00_scope.md R9). DESIGN CHOICE: that the host moves again and again, and the idle core too, is the model's own assumption and
stronger than R9 (assumption log 23). -/
def fair (schedule : Nat → Mover) : Prop := ∀ (m : Mover) (n : Nat), ∃ k, n ≤ k ∧ schedule k = m

end Sys2Proof.Machine
end

