-- ==== Sys2Proof/Machine/HostDuties.lean ====
section
/-! DEFINITION. What a host owes the core (46_host_driver.md R143 (a) to (d)), in terms of what the host itself has done and read:
nothing here looks into the core. Duty (e), holding `cmd` and `din`, is in the form of an Issue turn (assumption log 21). -/

namespace Sys2Proof.Machine

/-- What a host has done and read, as far as its duties speak of it (R143; assumption log 24). -/
structure HostView where
  /-- it has issued LDKEY since the last Reset (a) -/
  keyIssued : Bool
  /-- since its last LDKEY, ENC or Reset the word last read from STATUS showed `BUSY = 0` (b) -/
  idleRead : Bool
  /-- since its last ENC or Reset the word last read from STATUS showed `OVLD = 1` (c) -/
  validRead : Bool
  /-- it has issued an ENC and has not read `dout` since (c) -/
  resultDue : Bool
deriving DecidableEq, Repr

/-- The host after Reset: it has done and read nothing that counts. -/
def HostView.fresh : HostView := { keyIssued := false, idleRead := false, validRead := false, resultDue := false }

/-- The duties allow the host this turn (R143 (a) to (d)). NOP, reading STATUS and Reset are free at any time; the turns that are
not the host's are nobody's duty. -/
def HostView.permits (v : HostView) : Turn → Bool
  | .issue cmd _ =>
    if cmd = 0b01 then v.idleRead
    else if cmd = 0b10 then v.keyIssued && v.idleRead && !v.resultDue
    else decide (cmd ≠ 0b11)
  | .readDout => v.validRead
  | .readStatus => true
  | .reset => true
  | .core => true
  | .unit _ => true

/-- The word last read from STATUS, taken note of. -/
def HostView.noteStatus (v : HostView) (status : BitVec 6) : HostView :=
  { v with idleRead := Awaited.idle.shownBy status, validRead := Awaited.outputValid.shownBy status }

/-- The host after a turn, `seen` being all it has read, that turn's reply included. -/
def HostView.note (v : HostView) (t : Turn) (seen : List Reply) : HostView :=
  match t with
  | .issue cmd _ =>
    if cmd = 0b01 then { v with keyIssued := true, idleRead := false }
    else if cmd = 0b10 then { v with idleRead := false, validRead := false, resultDue := true }
    else v
  | .readStatus =>
    match seen.getLast? with
    | some (.status w) => v.noteStatus w
    | some (.dout _) => v
    | none => v
  | .readDout => { v with resultDue := false }
  | .reset => .fresh
  | .core => v
  | .unit _ => v

end Sys2Proof.Machine
end

