-- ==== Sys2Proof/Safety.lean ====
section
/-! DEFINITION. The terms in which claims speak of runs: several steps, the legal positions of the sequencer, the invariant of
10_state.md R24, the history it refers to, the duties of a host, and GF(2^8) multiplication on polynomials. -/

namespace Sys2Proof.Machine

/-- `n` steps, stopping at the first outcome that is no next state. -/
def run : Nat → State → Host.Outcome State Fault Refusal
  | 0, s => .next s
  | n + 1, s =>
    match step s with
    | .next t => run n t
    | .fault f => .fault f
    | .refused r => .refused r

/-- The 51 legal positions of 10_state.md R15. -/
def Seq.legal (q : Seq) : Bool :=
  match q.op, q.ph with
  | .idle, .ark => decide (q.rnd.val = 0)
  | .kx, .ark => decide (1 ≤ q.rnd.val)
  | .en, .ark => true
  | .en, .sb => decide (1 ≤ q.rnd.val)
  | .en, .sr => decide (1 ≤ q.rnd.val)
  | .en, .mc => decide (1 ≤ q.rnd.val) && decide (q.rnd.val ≤ 9)
  | .idle, .sb | .idle, .sr | .idle, .mc => false
  | .kx, .sb | .kx, .sr | .kx, .mc => false

/-- The invariant of 10_state.md R24 (a), (c), (d), (e), with the clause that makes it inductive: while the round key `m` is
next to be produced, those before it are the schedule's. -/
structure State.Inv (s : State) : Prop where
  /-- R24(a) -/
  legal : s.seq.legal = true
  /-- R24(c): a ready schedule is the expansion of its round key 0 -/
  schedule : s.krdy = true → s.rk = expand s.rk[0]
  /-- R24(d) -/
  encrypting : s.seq.op = .en → s.krdy = true
  /-- R24(e) -/
  expanding : s.seq.op = .kx → s.krdy = false
  /-- the part of the schedule that is written -/
  partialSchedule : s.seq.op = .kx → ∀ m : Round, m.val < s.seq.rnd.val → s.rk[m] = (expand s.rk[0])[m]

/-- What happened since the last reset, as far as 10_state.md R24 (c) and (f) speak of it: the operand of the last accepted
LDKEY; operand and schedule of the ENC last accepted; the same of the ENC last completed. -/
structure History where
  key : Option Block
  current : Option (Block × Sched)
  completed : Option (Block × Sched)
deriving DecidableEq, Repr

/-- Nothing has happened since reset. -/
def History.none : History := { key := Option.none, current := Option.none, completed := Option.none }

/-- The history after the step taken from `s`. -/
def History.record (h : History) (s : State) : History :=
  match s.nextOp with
  | some (.ldkey k) => if s.busy then h else { h with key := some k }
  | some (.enc p) => if s.busy || !s.krdy then h else { h with current := some (p, s.rk) }
  | some (.ark r) => if r.val = 10 then { h with completed := h.current } else h
  | some .reset => History.none
  | _ => h

/-- The history explains the state: R24(c), second half; R24(f); and, while an ENC is in flight, the State after the steps taken
so far (44_block_encrypt.md R111). -/
structure History.Explains (h : History) (s : State) : Prop where
  /-- `RK[0]` is the operand of the last accepted LDKEY -/
  key : s.krdy = true ∨ s.seq.op = .kx → h.key = some s.rk[0]
  /-- an ENC in flight works on its operand under the schedule in force at its acceptance -/
  inFlight : s.seq.op = .en → ∃ p n, n < 40 ∧ h.current = some (p, s.rk) ∧ (s.seq.rnd, s.seq.ph) = encPosition n ∧
    s.st = stateAfter p s.rk n
  /-- `DOUT = ENCBLK(p, K)` of the last completed ENC -/
  output : s.ovld = true → ∃ p rk, h.completed = some (p, rk) ∧ s.dout = encBlk p rk

/-- The host keeps its duties (46_host_driver.md R143 (a) to (d)) through the next `n` steps, `v` being what it has done and read
before them. -/
def dutifulFor : Nat → HostView → State → Bool
  | 0, _, _ => true
  | n + 1, v, s =>
    v.permits s.turn &&
      match step s with
      | .next t => dutifulFor n (v.note s.turn t.seen) t
      | .fault _ => false
      | .refused _ => false

/-- The core-side condition that the duties of R143 bring about: the step about to be taken is no command that the core must drop
and no read of `dout` while `OVLD = 0`. It looks at the core's flags and says nothing of what the host has read; the duties
themselves are `HostView.permits`. -/
def State.dutiful (s : State) : Bool :=
  match s.nextOp with
  | some (.ldkey _) => !s.busy
  | some (.enc _) => !s.busy && s.krdy
  | some (.rsvd _) => false
  | some .rdout => s.ovld
  | _ => true

/-- Product of two bytes read as polynomials over GF(2), degree at most 14 (40_gf_arithmetic.md R71). -/
def polyMul (a b : Byte) : BitVec 15 :=
  (List.range 8).foldl (fun acc i => if b.getLsbD i then acc ^^^ (a.zeroExtend 15 <<< i) else acc) 0

/-- Remainder modulo x^8 + x^4 + x^3 + x + 1 = 0x11B, highest term first (40_gf_arithmetic.md R71). -/
def polyMod (v : BitVec 15) : Byte :=
  ((List.range 7).foldl (fun acc i => if acc.getLsbD (14 - i) then acc ^^^ (0x11B#15 <<< (6 - i)) else acc) v).truncate 8

end Sys2Proof.Machine
end

