-- ==== Sys2Proof/Certificates/Slice0/Obligations.lean ====
section
/-! DEFINITION. The statements about the machine, for the provers. Each docstring names the rule it formalises. -/

open Sys2Proof Sys2Proof.Machine

/-! ### Host commands -/

/-- R121: NOP (code 00) leaves every state as it is, busy or idle, with or without an error. -/
def Obligations.NopChangesNothing : Prop :=
  ∀ (din : Block) (s : State), decodeCommand 0b00 din = .nop din ∧ exec (.nop din) s = .next s

/-- R124: the reserved code 11 records `E_RSVD` if no error is recorded, and changes nothing else, in every state. -/
def Obligations.ReservedCodeRecordsItsError : Prop :=
  ∀ (din : Block) (s : State), decodeCommand 0b11 din = .rsvd din ∧
    exec (.rsvd din) s = .next { s with ecode := if s.ecode = 0b00 then 0b01 else s.ecode }

/-- R122: an idle core takes the key as round key 0, clears KRDY and goes to (KX, 1, ARK), whatever ECODE holds; a busy core
records `E_BUSY` if no error is recorded. Nothing else changes in either case. -/
def Obligations.LdkeyIsAcceptedIdleAndDroppedBusy : Prop :=
  ∀ (din : Block) (s : State),
    (s.seq.op = .idle → exec (.ldkey din) s =
      .next { s with rk := s.rk.set 0 din, krdy := false, seq := { op := .kx, rnd := 1, ph := .ark } }) ∧
    (s.seq.op ≠ .idle → exec (.ldkey din) s = .next { s with ecode := if s.ecode = 0b00 then 0b10 else s.ecode })

/-- R123: an idle core with a ready schedule takes the block into ST, clears OVLD and goes to (EN, 0, ARK), whatever ECODE
holds; a busy core records `E_BUSY` whatever KRDY is (R155), an idle core without a ready schedule `E_NOKEY`, in both cases only
if no error is recorded (R153). Nothing else changes in any case. -/
def Obligations.EncIsAcceptedOrDroppedWithItsError : Prop :=
  ∀ (din : Block) (s : State),
    (s.seq.op = .idle → s.krdy = true → exec (.enc din) s =
      .next { s with st := din, ovld := false, seq := { op := .en, rnd := 0, ph := .ark } }) ∧
    (s.seq.op ≠ .idle → exec (.enc din) s = .next { s with ecode := if s.ecode = 0b00 then 0b10 else s.ecode }) ∧
    (s.seq.op = .idle → s.krdy = false →
      exec (.enc din) s = .next { s with ecode := if s.ecode = 0b00 then 0b11 else s.ecode })

/-- R125: the handling of Issue(cmd, din), in its order, the first case that applies deciding. ECODE is no condition of any
case, so ERR = 1 does not prevent acceptance. -/
def Obligations.IssueFollowsTheOrderOfChecks : Prop :=
  ∀ (cmd : BitVec 2) (din : Block) (s : State),
    exec (decodeCommand cmd din) s = .next (
      if cmd = 0b11 then { s with ecode := if s.ecode = 0b00 then 0b01 else s.ecode }
      else if cmd = 0b00 then s
      else if s.seq.op ≠ .idle then { s with ecode := if s.ecode = 0b00 then 0b10 else s.ecode }
      else if cmd = 0b10 ∧ s.krdy = false then { s with ecode := if s.ecode = 0b00 then 0b11 else s.ecode }
      else if cmd = 0b01 then
        { s with rk := s.rk.set 0 din, krdy := false, seq := { op := .kx, rnd := 1, ph := .ark } }
      else { s with st := din, ovld := false, seq := { op := .en, rnd := 0, ph := .ark } })

/-! ### Port events and reset -/

/-- R20, R17, R19: ReadStatus gives the host a 6-bit word with KRDY in bit 0, BUSY in bit 1, OVLD in bit 2, ERR in bit 3 and
ECODE in bits 5:4, and changes nothing of the core. (That the reply is recorded in `seen` is the model's, assumption log 11.) -/
def Obligations.ReadStatusGivesTheFields : Prop :=
  ∀ s : State, ∃ v : BitVec 6, exec .rdstat s = .next { s with seen := s.seen ++ [.status v] } ∧
    v.getLsbD 0 = s.krdy ∧ v.getLsbD 1 = decide (s.seq.op ≠ .idle) ∧ v.getLsbD 2 = s.ovld ∧
    v.getLsbD 3 = decide (s.ecode ≠ 0b00) ∧ v.extractLsb' 4 2 = s.ecode

/-- R120, R12: ReadDout gives the host DOUT while OVLD = 1; while OVLD = 0 it still answers, with some 16 bytes about which
nothing is said. It records no error and changes nothing of the core, OVLD included. (The record of replies and the count of
draws are the model's, assumption log 3, 5, 11.) -/
def Obligations.ReadDoutGivesTheCiphertextOrADraw : Prop :=
  ∀ s : State,
    (s.ovld = true → exec .rdout s = .next { s with seen := s.seen ++ [.dout s.dout] }) ∧
    (s.ovld = false →
      ∃ v : Block, exec .rdout s = .next { s with seen := s.seen ++ [.dout v], draws := s.draws + 1 })

/-- R170, R23: Reset in any state, busy or not, leaves SEQ at (IDLE, 0, ARK), KRDY, OVLD and ECODE at 0, and RK, ST, DOUT at
some bytes about which nothing is said. (The thirteen draws are the model's count, assumption log 2, 5.) -/
def Obligations.ResetClearsTheFlagsInAnyState : Prop :=
  ∀ s : State, ∃ (rk : Sched) (st dout : Block),
    exec .reset s = .next { s with
      rk := rk
      st := st
      dout := dout
      seq := { op := .idle, rnd := 0, ph := .ark }
      krdy := false
      ovld := false
      ecode := 0b00
      draws := s.draws + 13 }

/-- R23: the specified fields of the machine right after reset; hence STATUS reads as six zeros (Z1). -/
def Obligations.ResetStateHasTheSpecifiedFields : Prop :=
  State.reset.seq = { op := .idle, rnd := 0, ph := .ark } ∧ State.reset.krdy = false ∧ State.reset.ovld = false ∧
    State.reset.ecode = 0b00 ∧ State.reset.status = 0b000000

/-! ### Sequencer steps -/

/-- R112: at (KX, m, ARK), m in 1..10, the core step writes RK[m] <- KEXP(RK[m-1], m) and goes to (KX, m+1, ARK), or at m = 10
to (IDLE, 0, ARK) with KRDY <- 1; no other state changes. -/
def Obligations.KexpStepWritesTheNextRoundKey : Prop :=
  ∀ (m : Round) (s : State), 1 ≤ m.val → s.seq = { op := .kx, rnd := m, ph := .ark } →
    (∀ h : m.val < 10, exec (.kexp m) s = .next { s with
      rk := s.rk.set m.val (kexp s.rk[m.val - 1] m)
      seq := { op := .kx, rnd := ⟨m.val + 1, by omega⟩, ph := .ark } }) ∧
    (m.val = 10 → exec (.kexp m) s = .next { s with
      rk := s.rk.set m.val (kexp s.rk[m.val - 1] m)
      seq := { op := .idle, rnd := 0, ph := .ark }
      krdy := true })

/-- R113: the core step at (EN, r, ph) for each phase: ST takes the transform's result; SEQ advances; at (EN, 10, ARK) the same
step writes DOUT with the State after ARK, sets OVLD and goes idle; no other state changes. -/
def Obligations.EncryptionStepsTransformTheState : Prop :=
  ∀ (r : Round) (s : State),
    (s.seq = { op := .en, rnd := r, ph := .ark } →
      (∀ h : r.val < 10, exec (.ark r) s = .next { s with
        st := ark s.st s.rk[r]
        seq := { op := .en, rnd := ⟨r.val + 1, by omega⟩, ph := .sb } }) ∧
      (r.val = 10 → exec (.ark r) s = .next { s with
        st := ark s.st s.rk[r]
        seq := { op := .idle, rnd := 0, ph := .ark }
        dout := ark s.st s.rk[r]
        ovld := true })) ∧
    (s.seq = { op := .en, rnd := r, ph := .sb } →
      exec (.sb r) s = .next { s with st := sb s.st, seq := { op := .en, rnd := r, ph := .sr } }) ∧
    (s.seq = { op := .en, rnd := r, ph := .sr } →
      exec (.sr r) s = .next { s with
        st := sr s.st
        seq := { op := .en, rnd := r, ph := if r.val < 10 then .mc else .ark } }) ∧
    (s.seq = { op := .en, rnd := r, ph := .mc } →
      exec (.mc r) s = .next { s with st := mc s.st, seq := { op := .en, rnd := r, ph := .ark } })

/-- R112 and R113, "Enabled exactly when": a micro-operation that SEQ does not select is not performed; the state stays. The
state's staying, and KEXP at m = 0, are the model's reading (assumption log 7, 8; Q16 says it of the idle core). -/
def Obligations.UnselectedMicroOperationIsNotPerformed : Prop :=
  ∀ (r : Round) (s : State),
    (s.seq ≠ { op := .kx, rnd := r, ph := .ark } ∨ r.val = 0 → exec (.kexp r) s = .next s) ∧
    (s.seq ≠ { op := .en, rnd := r, ph := .ark } → exec (.ark r) s = .next s) ∧
    (s.seq ≠ { op := .en, rnd := r, ph := .sb } → exec (.sb r) s = .next s) ∧
    (s.seq ≠ { op := .en, rnd := r, ph := .sr } → exec (.sr r) s = .next s) ∧
    (s.seq ≠ { op := .en, rnd := r, ph := .mc } → exec (.mc r) s = .next s)

/-- R59 (the mask of the UOP rows), R112, R113: at the core's turn a micro-operation is the next operation exactly when SEQ is its
position; nothing else selects one. At the positions that never occur the rules enable no step or say nothing, and the choice is
the model's: KEXP is selected at (KX, 0, ARK) too, as R59's mask has it, though R112 enables nothing there and its execution
leaves the state (assumption log 7); SB, SR and MC at round 0 and MC at round 10 follow R113's letter (assumption log 9). -/
def Obligations.PositionSelectsTheMicroOperation : Prop :=
  ∀ (s : State) (r : Round), s.agenda.headD .core = .core →
    (s.nextOp = some (.kexp r) ↔ s.seq = { op := .kx, rnd := r, ph := .ark }) ∧
    (s.nextOp = some (.ark r) ↔ s.seq = { op := .en, rnd := r, ph := .ark }) ∧
    (s.nextOp = some (.sb r) ↔ s.seq = { op := .en, rnd := r, ph := .sb }) ∧
    (s.nextOp = some (.sr r) ↔ s.seq = { op := .en, rnd := r, ph := .sr }) ∧
    (s.nextOp = some (.mc r) ↔ s.seq = { op := .en, rnd := r, ph := .mc })

/-- R70, R73, R80, R90, R92, R110, R75, R83: a function unit evaluated on its own delivers its function's value and changes no
register. (Where the value is kept is the model's, assumption log 10.) -/
def Obligations.FunctionUnitsDeliverTheirValue : Prop :=
  ∀ (a b : Byte) (w : Word4) (m : Round) (k : Block) (rk : Sched) (s : State),
    exec (.gfmul a b) s = .next { s with unitOut := some (.byte (gfmul a b)) } ∧
    exec (.xtime a) s = .next { s with unitOut := some (.byte (xtime a)) } ∧
    exec (.sbox b) s = .next { s with unitOut := some (.byte (sbox b)) } ∧
    exec (.kscore w m) s = .next { s with unitOut := some (.word (kscore w m)) } ∧
    exec (.expand k) s = .next { s with unitOut := some (.sched (expand k)) } ∧
    exec (.encblk k rk) s = .next { s with unitOut := some (.block (encBlk k rk)) }

/-- R10 (the column "written by"), R12, R16, R18, R19: the FRAME of every operation. Each of the seven registers keeps its value
unless the operation is one the table lets write it. There is no memory (R34). The last four clauses are the model's own choices
about its own fields and no rule of the spec: the agenda is never touched, not by RESET either (assumption log 6); replies come
from the two reads only, and RESET keeps them (assumption log 11); unit results come from the function units (assumption log 10);
draws are counted by RDOUT and RESET (assumption log 5). -/
def Obligations.RegistersChangeOnlyWhereTheTableSays : Prop :=
  ∀ (i : Instr) (s t : State), exec i s = .next t →
    (t.rk = s.rk ∨ (∃ k, i = .ldkey k) ∨ (∃ m, i = .kexp m) ∨ i = .reset) ∧
    (t.st = s.st ∨ (∃ p, i = .enc p) ∨ (∃ r, i = .ark r ∨ i = .sb r ∨ i = .sr r ∨ i = .mc r) ∨ i = .reset) ∧
    (t.dout = s.dout ∨ i = .ark 10 ∨ i = .reset) ∧
    (t.seq = s.seq ∨ (∃ b, i = .ldkey b ∨ i = .enc b) ∨ i.format = .uop ∨ i = .reset) ∧
    (t.krdy = s.krdy ∨ (∃ k, i = .ldkey k) ∨ i = .kexp 10 ∨ i = .reset) ∧
    (t.ovld = s.ovld ∨ (∃ p, i = .enc p) ∨ i = .ark 10 ∨ i = .reset) ∧
    (t.ecode = s.ecode ∨ (∃ b, i = .ldkey b ∨ i = .enc b ∨ i = .rsvd b) ∨ i = .reset) ∧
    t.agenda = s.agenda ∧
    (t.seen = s.seen ∨ i = .rdstat ∨ i = .rdout) ∧
    (t.unitOut = s.unitOut ∨ i.format = .func) ∧
    (t.draws = s.draws ∨ i = .rdout ∨ i = .reset)

/-! ### The datapath -/

/-- R72: the two identities, and the commuted form MC uses, which the spec marks as derived from R70 and R71. -/
def Obligations.GfmulByZeroAndOne : Prop :=
  ∀ a : Byte, gfmul a 0x00 = 0x00 ∧ gfmul a 0x01 = a ∧ gfmul 0x00 a = 0x00 ∧ gfmul 0x01 a = a

/-- R71: the loop computes the product of the two polynomials reduced modulo x^8 + x^4 + x^3 + x + 1. -/
def Obligations.GfmulIsThePolynomialProduct : Prop :=
  ∀ a b : Byte, gfmul a b = polyMod (polyMul a b)

/-- R71, its consequences: GFMUL is commutative, associative and distributes over exclusive-or in each argument. -/
def Obligations.GfmulObeysTheFieldLaws : Prop :=
  ∀ a b c : Byte, gfmul a b = gfmul b a ∧ gfmul (gfmul a b) c = gfmul a (gfmul b c) ∧
    gfmul a (b ^^^ c) = gfmul a b ^^^ gfmul a c ∧ gfmul (a ^^^ b) c = gfmul a c ^^^ gfmul b c

/-- R73, which the spec marks as its own inference from R70: XTIME is doubling, its formula, and products by the three
coefficients 1, 2, 3, which are the only ones MIXM (R33) holds. -/
def Obligations.XtimeGivesTheMixCoefficients : Prop :=
  (∀ k j : Fin 4, mixm k j = 0x01 ∨ mixm k j = 0x02 ∨ mixm k j = 0x03) ∧
  ∀ x : Byte, xtime x = gfmul 0x02 x ∧ xtime x = (x <<< 1) ^^^ (if x.getLsbD 7 then 0x1B else 0x00) ∧
    gfmul 0x01 x = x ∧ gfmul 0x03 x = xtime x ^^^ x

/-- R31: the index 16 * b[7:4] + b[3:0] is the byte itself, and SBOX reads row b[7:4], column b[3:0] of the table. R82 (b), R80:
the table is a permutation, no byte maps to itself or to its complement, and 0x52 alone maps to zero. -/
def Obligations.SboxIsAPermutationReadByRowAndColumn : Prop :=
  (∀ b : Byte, sboxIndex b = b.toNat ∧
    sbox b = (sboxRows.getD (highNibble b).toNat (Vector.replicate 16 0)).getD (lowNibble b).toNat 0) ∧
  (∀ x y : Byte, sbox x = sbox y → x = y) ∧ (∀ x : Byte, sbox x ≠ x ∧ sbox x ≠ x ^^^ 0xFF ∧ (sbox x = 0x00 ↔ x = 0x52))

/-- R82 (a): every entry of the table is the defining formula's value: with y the inverse of x under GFMUL (0 for 0),
SBOX(x) = y ^ rotl8(y,1) ^ rotl8(y,2) ^ rotl8(y,3) ^ rotl8(y,4) ^ 0x63. -/
def Obligations.SboxIsTheAffineImageOfTheInverse : Prop :=
  ∀ x : Byte, ∃ y : Byte, (if x = 0x00 then y = 0x00 else gfmul x y = 0x01) ∧
    sbox x = y ^^^ y.rotateLeft 1 ^^^ y.rotateLeft 2 ^^^ y.rotateLeft 3 ^^^ y.rotateLeft 4 ^^^ 0x63

/-- R32: the ten entries, each the double of the one before. Entry 0 is not mentioned: it is free. -/
def Obligations.RoundConstantsAreRepeatedDoublings : Prop :=
  rcon 1 = 0x01 ∧ rcon 2 = 0x02 ∧ rcon 3 = 0x04 ∧ rcon 4 = 0x08 ∧ rcon 5 = 0x10 ∧ rcon 6 = 0x20 ∧ rcon 7 = 0x40 ∧
    rcon 8 = 0x80 ∧ rcon 9 = 0x1b ∧ rcon 10 = 0x36 ∧
    ∀ (m : Nat) (h : m + 1 < 11), 1 ≤ m → rcon ⟨m + 1, h⟩ = gfmul 0x02 (rcon ⟨m, by omega⟩)

/-- R33's table, in the form the spec derives from it: MIXM[k][j] = (0x02, 0x03, 0x01, 0x01)[(j - k) mod 4]. -/
def Obligations.MixMatrixIsCirculant : Prop :=
  ∀ k j : Fin 4, mixm k j = (#v[0x02, 0x03, 0x01, 0x01] : Word4)[j - k]

/-- R90: rotate left by one byte, substitute every byte, XOR the round constant into byte 0 only; so
KSCORE(w, m) = (SBOX(w[1]) ^ RCON[m], SBOX(w[2]), SBOX(w[3]), SBOX(w[0])). -/
def Obligations.KscoreRotatesSubstitutesAddsConstant : Prop :=
  ∀ (w : Word4) (m : Round), kscore w m = #v[sbox w[1] ^^^ rcon m, sbox w[2], sbox w[3], sbox w[0]]

/-- R91 steps 1 to 4: bytes 0..3 are the old bytes XOR the core function of the last four; byte i from 4 on is the old byte i
XOR byte i-4 of the NEW round key. -/
def Obligations.KexpUsesTheNewRoundKey : Prop :=
  ∀ (k : Block) (m : Round),
    (∀ i : Fin 4, (kexp k m)[i.val] = k[i.val] ^^^ (kscore #v[k[12], k[13], k[14], k[15]] m)[i.val]) ∧
    (∀ (i : Nat) (_ : 4 ≤ i) (h : i < 16), (kexp k m)[i] = k[i] ^^^ (kexp k m)[i - 4])

/-- R92: round key 0 is the key unmodified, and round key m is KEXP of round key m-1. -/
def Obligations.ExpandIteratesKexpFromTheKey : Prop :=
  ∀ key : Block, (expand key)[0] = key ∧
    ∀ (m : Nat) (h : m + 1 < 11), (expand key)[m + 1] = kexp (expand key)[m] ⟨m + 1, h⟩

/-- R93, informative and derived by the spec from R91: the word-oriented schedule. With W[4m + j] the bytes 4j..4j+3 of round
key m: W[4m] = W[4m-4] ^ KSCORE(W[4m-1], m) and
W[4m+j] = W[4m+j-4] ^ W[4m+j-1] for j = 1, 2, 3. -/
def Obligations.ScheduleIsTheWordOrientedOne : Prop :=
  ∀ (key : Block) (W : Nat → Nat → Byte), (∀ (n b : Nat) (hn : n < 44) (hb : b < 4),
      W n b = ((expand key)[n / 4])[4 * (n % 4) + b]'(by omega)) →
    ∀ (m : Nat) (hm : m + 1 < 11) (b : Nat) (hb : b < 4),
      W (4 * (m + 1)) b = W (4 * m) b ^^^
        (kscore #v[W (4 * m + 3) 0, W (4 * m + 3) 1, W (4 * m + 3) 2, W (4 * m + 3) 3] ⟨m + 1, hm⟩)[b] ∧
      ∀ j : Nat, 1 ≤ j → j ≤ 3 → W (4 * (m + 1) + j) b = W (4 * m + j) b ^^^ W (4 * (m + 1) + j - 1) b

/-- R100: byte-wise exclusive-or, an involution, with the corner cases of the rule. -/
def Obligations.AddRoundKeyIsAnInvolution : Prop :=
  ∀ s k : Block, (∀ i : Fin 16, (ark s k)[i] = s[i] ^^^ k[i]) ∧ ark (ark s k) k = s ∧
    ark s (Vector.replicate 16 0x00) = s ∧ ark s s = Vector.replicate 16 0x00 ∧ ark s k = ark k s

/-- R101: every byte through SBOX; SB and SR commute. -/
def Obligations.SubBytesCommutesWithShiftRows : Prop :=
  ∀ s : Block, (∀ i : Fin 16, (sb s)[i] = sbox s[i]) ∧ sb (sr s) = sr (sb s)

/-- R102: s'[r + 4c] = s[r + 4((c + r) mod 4)], which is s'[i] = s[5i mod 16]; four applications are the identity; a State of
four equal columns is unchanged. -/
def Obligations.ShiftRowsRotatesRowsWithPeriodFour : Prop :=
  ∀ s : Block,
    (∀ r c : Fin 4, (sr s)[r.val + 4 * c.val] = s[r.val + 4 * ((c.val + r.val) % 4)]) ∧
    (∀ i : Fin 16, (sr s)[i] = s[(5 * i.val) % 16]) ∧
    sr (sr (sr (sr s))) = s ∧
    ((∀ r c : Fin 4, s[r.val + 4 * c.val] = s[r.val]) → sr s = s)

/-- R103, with R33 and R73: the four output bytes of a column, all from the old bytes; a column of four equal bytes is
unchanged. -/
def Obligations.MixColumnsComputesEachColumn : Prop :=
  ∀ (s : Block) (c : Fin 4) (a0 a1 a2 a3 : Byte),
    s[4 * c.val] = a0 → s[4 * c.val + 1] = a1 → s[4 * c.val + 2] = a2 → s[4 * c.val + 3] = a3 →
    (mc s)[4 * c.val] = xtime a0 ^^^ (xtime a1 ^^^ a1) ^^^ a2 ^^^ a3 ∧
    (mc s)[4 * c.val + 1] = a0 ^^^ xtime a1 ^^^ (xtime a2 ^^^ a2) ^^^ a3 ∧
    (mc s)[4 * c.val + 2] = a0 ^^^ a1 ^^^ xtime a2 ^^^ (xtime a3 ^^^ a3) ∧
    (mc s)[4 * c.val + 3] = (xtime a0 ^^^ a0) ^^^ a1 ^^^ a2 ^^^ xtime a3 ∧
    (a0 = a1 → a1 = a2 → a2 = a3 → ∀ k : Fin 4, (mc s)[4 * c.val + k.val] = a0)

/-- R104, derived by the spec from R100 to R103: the lane structure. A lane of ARK or SB depends on that lane alone; SR moves
lanes and computes nothing; a column of
MC depends on that column alone. -/
def Obligations.TransformsRespectTheLanes : Prop :=
  ∀ s s' k k' : Block,
    (∀ i : Fin 16, s[i] = s'[i] → k[i] = k'[i] → (ark s k)[i] = (ark s' k')[i]) ∧
    (∀ i : Fin 16, s[i] = s'[i] → (sb s)[i] = (sb s')[i]) ∧
    (∃ src : Fin 16 → Fin 16, Function.Bijective src ∧ ∀ (u : Block) (i : Fin 16), (sr u)[i] = u[src i]) ∧
    (∀ c : Fin 4, (∀ j : Fin 4, s[4 * c.val + j.val] = s'[4 * c.val + j.val]) →
      ∀ j : Fin 4, (mc s)[4 * c.val + j.val] = (mc s')[4 * c.val + j.val])

/-- R110 and R111: ENCBLK is AddRoundKey, nine rounds of SB, SR, MC, ARK and a last round without MC, which are the forty steps
of the sequencer's list. -/
def Obligations.EncblkIsTheFortySteps : Prop :=
  ∀ (p : Block) (rk : Sched),
    encBlk p rk = ark (sr (sb ((List.finRange 9).foldl
      (fun s (n : Fin 9) => ark (mc (sr (sb s))) (rk[n.val + 1])) (ark p rk[0])))) rk[10] ∧
    stateAfter p rk 40 = encBlk p rk

/-! ### Encodings -/

/-- R36: byte i of a block is bits [127-8i : 120-8i] of the vector, and blocks and 128-bit vectors correspond one to one. -/
def Obligations.BlockPackingIsMostSignificantFirst : Prop :=
  (∀ (b : Block) (i : Fin 16), (Block.toBits b).extractLsb' (120 - 8 * i.val) 8 = b[i]) ∧
    (∀ b : Block, Block.ofBits (Block.toBits b) = b) ∧ (∀ v : BitVec 128, Block.toBits (Block.ofBits v) = v)

/-- R50: cmd = CW[129:128], din byte i at CW[127-8i : 120-8i]. The second half says that the model's byte stream (assumption
log 12) is that word zero-extended to 136 bits, most significant byte first. -/
def Obligations.CommandBytesAreTheCommandWord : Prop :=
  ∀ (cmd : BitVec 2) (din : Block),
    (commandWord cmd din).extractLsb' 128 2 = cmd ∧
    (∀ i : Fin 16, (commandWord cmd din).extractLsb' (120 - 8 * i.val) 8 = din[i]) ∧
    (commandBytes cmd din).length = 17 ∧
    ∀ k : Fin 17, (commandBytes cmd din)[k.val]? =
      some (((commandWord cmd din).zeroExtend 136).extractLsb' (128 - 8 * k.val) 8)

/-- R50, R51, R59: DECODE AND ENCODE AGREE. Every operation that has an encoding is read back from it, whatever bytes follow,
with every operand at every value the encoding admits. -/
def Obligations.DecodeOfEncodeIsTheOperation : Prop :=
  ∀ (i : Instr) (bytes rest : List Byte), encode i = some bytes → decode (bytes ++ rest) = .ok (i, rest)

/-- R51, R53, R59: the other direction. Whatever the decoder reads is the encoding of the operation it answers, so no two words
are read as one operation and no other word is accepted. -/
def Obligations.DecodedBytesAreTheEncoding : Prop :=
  ∀ (bytes : List Byte) (i : Instr) (rest : List Byte), decode bytes = .ok (i, rest) →
    ∃ word, encode i = some word ∧ bytes = word ++ rest

/-- R59 (null encodings of the PORT and FUNC rows, the reference word of the UOP rows; 90_conflicts.md C8): exactly the PORT and
FUNC operations have no encoding. That the reference word counts as the encoding of a UOP is the model's byte form (assumption
log 12). -/
def Obligations.PortAndFunctionUnitsHaveNoEncoding : Prop :=
  ∀ i : Instr, encode i = none ↔ i.format = .port ∨ i.format = .func

/-- R51, R59: words written out from the tables decode to the operations they stand for. The two refusals are the model's reading:
no operation has op code 3, which the byte form refuses (assumption log 12), and a rnd field of 11 is outside R15's 0..10
(assumption log 15). -/
def Obligations.TableWordsDecodeToTheirOperations : Prop :=
  decode (0x01 :: (List.range 16).map (BitVec.ofNat 8)) =
    .ok (.ldkey #v[0, 1, 2, 3, 4, 5, 6, 7, 8, 9, 10, 11, 12, 13, 14, 15], []) ∧
  decode [0b01000100] = .ok (.kexp 1, []) ∧ decode [0b10101000] = .ok (.ark 10, []) ∧
  decode [0b10000101] = .ok (.sb 1, []) ∧ decode [0b10101010] = .ok (.sr 10, []) ∧
  decode [0b10100111] = .ok (.mc 9, []) ∧
  decode [0b11000000] = .error .noSuchOp ∧ decode [0b01101100] = .error .roundOutOfRange

/-- R15: of the positions (op, rnd, ph), exactly 51 are legal. -/
def Obligations.FiftyOnePositionsAreLegal : Prop :=
  (([SeqOp.idle, .kx, .en].flatMap fun op => (List.finRange 11).flatMap fun r =>
    [Phase.ark, .sb, .sr, .mc].map fun ph => ({ op := op, rnd := r, ph := ph } : Seq)).countP Seq.legal) = 51

/-! ### The step -/

/-- R50, R59, R9: A STEP RUNS THE DECODED OPERATION. The word is the command the host issues, or the reference word of a busy
core's position; when it decodes to a well-formed operation, the step is its execution in the state with the turn taken. -/
def Obligations.StepRunsTheDecodedOperation : Prop :=
  ∀ s : State,
    (∀ cmd din tail, s.agenda = .issue cmd din :: tail → s.nextWord = some (commandBytes cmd din)) ∧
    (s.agenda.headD .core = .core → s.seq.op ≠ .idle → s.nextWord = some [s.seq.word]) ∧
    (∀ bytes i rest, s.nextWord = some bytes → decode bytes = .ok (i, rest) → i.wellFormed = true →
      step s = exec i { s with agenda := s.agenda.tail })

/-- R120: a step on a port event is that event; a step on a function unit is that unit's evaluation (assumption log 10). -/
def Obligations.StepPerformsPortEventsAndUnits : Prop :=
  ∀ (s : State) (tail : List Turn),
    (s.agenda = .readStatus :: tail → step s = exec .rdstat { s with agenda := tail }) ∧
    (s.agenda = .readDout :: tail → step s = exec .rdout { s with agenda := tail }) ∧
    (s.agenda = .reset :: tail → step s = exec .reset { s with agenda := tail }) ∧
    (∀ call, s.agenda = .unit call :: tail → step s = exec call.instr { s with agenda := tail })

/-- Every one of the eighteen operations can be placed so that the very next step performs it (assumption log 17). -/
def Obligations.PlacedOperationIsPerformedNext : Prop :=
  ∀ (s : State) (i : Instr), step (s.place i) = exec i { s.place i with agenda := s.agenda }

/-- R171, Q16: while no operation is in progress a turn of the core changes nothing but the agenda. -/
def Obligations.IdleCoreWaits : Prop :=
  ∀ s : State, s.agenda.headD .core = .core → s.seq.op = .idle → step s = .next { s with agenda := s.agenda.tail }

/-- R150: nothing stops the machine. From every state a step answers a next state. -/
def Obligations.EveryStepAnswersANextState : Prop :=
  ∀ s : State, ∃ t : State, step s = .next t

/-! ### The whole machine -/

/-- R24 at reset: the invariant holds, and the empty history explains the state. -/
def Obligations.InvariantAndHistoryHoldAtReset : Prop := State.reset.Inv ∧ History.none.Explains State.reset

/-- R24 (a), (c), (d), (e): AN INVARIANT THAT EVERY STEP KEEPS, from every state that meets it: SEQ is a legal position; a ready
schedule is the expansion of its round key 0; an encryption runs only under a ready schedule, an expansion only without one. -/
def Obligations.EveryStepKeepsTheInvariant : Prop :=
  ∀ s t : State, s.Inv → step s = .next t → t.Inv

/-- R24 (c), (f): every step keeps the history true to the state: RK[0] is the operand of the last accepted LDKEY, and while
OVLD = 1 DOUT is ENCBLK(p, K) of the last completed ENC, K the schedule in force when it was accepted. -/
def Obligations.EveryStepKeepsTheHistoryTrue : Prop :=
  ∀ (h : History) (s t : State), s.Inv → h.Explains s → step s = .next t → (h.record s).Explains t

/-- R114 (a), R40: if LDKEY with operand k is issued to an idle core and no Reset intervenes, then at the tenth core step, whatever
the host does between the steps, the core is idle, KRDY = 1 and RK = EXPAND(k); DOUT and OVLD are as they were. -/
def Obligations.LdkeyCompletesInTenCoreSteps : Prop :=
  ∀ (s : State) (k : Block) (between rest : List Turn),
    s.seq.op = .idle → .reset ∉ between → between.count .core = 9 →
    s.agenda = .issue 0b01 k :: (between ++ .core :: rest) →
    ∃ t, run (between.length + 2) s = .next t ∧ t.seq = { op := .idle, rnd := 0, ph := .ark } ∧ t.krdy = true ∧
      t.rk = expand k ∧ t.dout = s.dout ∧ t.ovld = s.ovld ∧ t.agenda = rest

/-- R114 (b), R40: if ENC with operand p is issued to an idle core with a ready schedule and no Reset intervenes, then at the
fortieth core step, whatever the host does between the steps, the core is idle, OVLD = 1 and DOUT = ENCBLK(p, RK), RK the
unchanged schedule at acceptance. -/
def Obligations.EncCompletesInFortyCoreSteps : Prop :=
  ∀ (s : State) (p : Block) (between rest : List Turn),
    s.seq.op = .idle → s.krdy = true → .reset ∉ between → between.count .core = 39 →
    s.agenda = .issue 0b10 p :: (between ++ .core :: rest) →
    ∃ t, run (between.length + 2) s = .next t ∧ t.seq = { op := .idle, rnd := 0, ph := .ark } ∧ t.ovld = true ∧
      t.dout = encBlk p s.rk ∧ t.rk = s.rk ∧ t.krdy = true ∧ t.agenda = rest

/-- R114 (c): while BUSY = 1 no host event other than Reset changes RK, ST, DOUT, SEQ, KRDY or OVLD. -/
def Obligations.HostCannotDisturbABusyCore : Prop :=
  ∀ (s t : State) (turn : Turn) (tail : List Turn), s.agenda = turn :: tail → turn ≠ .core → turn ≠ .reset →
    s.seq.op ≠ .idle → step s = .next t →
    t.rk = s.rk ∧ t.st = s.st ∧ t.dout = s.dout ∧ t.seq = s.seq ∧ t.krdy = s.krdy ∧ t.ovld = s.ovld

/-- R24 (g), R154: ECODE, once non-zero, keeps its value through every step but a Reset. -/
def Obligations.RecordedErrorStaysUntilReset : Prop :=
  ∀ s t : State, s.ecode ≠ 0b00 → s.agenda.headD .core ≠ .reset → step s = .next t → t.ecode = s.ecode

/-- R143: a host that keeps duties (a) to (d) never sets ERR. First for one step, in terms of the core's flags; then for the
duties themselves, in terms of what the host has done and read (what counts as a read is the model's reading, assumption log 24):
from any state without an error, a host that has read nothing yet and keeps its duties through n steps ends without an error, and
whenever its next turn is a permitted ReadDout, OVLD = 1, so what it reads is no draw. -/
def Obligations.DutifulHostRecordsNoError : Prop :=
  (∀ s t : State, s.dutiful = true → s.ecode = 0b00 → step s = .next t → t.ecode = 0b00) ∧
  (∀ (n : Nat) (s : State), s.ecode = 0b00 → dutifulFor n .fresh s = true → ∃ t, run n s = .next t ∧ t.ecode = 0b00) ∧
  (∀ (n : Nat) (s t : State), dutifulFor (n + 1) .fresh s = true → run n s = .next t → t.agenda.headD .core = .readDout →
    t.ovld = true)

/-- R115: no control decision depends on data. Two states that agree on SEQ, the flags, ECODE and the agenda still agree on them
after a step, whatever RK, ST and DOUT hold. -/
def Obligations.ControlNeverDependsOnData : Prop :=
  ∀ s s' t t' : State, s.seq = s'.seq → s.krdy = s'.krdy → s.ovld = s'.ovld → s.ecode = s'.ecode → s.agenda = s'.agenda →
    step s = .next t → step s' = .next t' →
    t.seq = t'.seq ∧ t.krdy = t'.krdy ∧ t.ovld = t'.ovld ∧ t.ecode = t'.ecode ∧ t.agenda = t'.agenda

/-- R22, R12: RK, ST and the details of SEQ are hidden. Two states that agree on BUSY, the flags, ECODE, DOUT, the agenda and what
the host has read so far give the host the same replies in the next step, unless it reads dout while OVLD = 0 (a draw). -/
def Obligations.HiddenRegistersReachNoPort : Prop :=
  ∀ s s' t t' : State, s.busy = s'.busy → s.krdy = s'.krdy → s.ovld = s'.ovld → s.ecode = s'.ecode → s.dout = s'.dout →
    s.agenda = s'.agenda → s.seen = s'.seen → (s.agenda.headD .core = .readDout → s.ovld = true) →
    step s = .next t → step s' = .next t' → t.seen = t'.seen

/-- R9, R116: left alone, a busy core is idle again after at most forty steps. -/
def Obligations.BusyCoreFinishesWithinFortySteps : Prop :=
  ∀ s : State, s.Inv → s.agenda = [] →
    ∃ (n : Nat) (t : State), n ≤ 40 ∧ run n s = .next t ∧ t.seq = { op := .idle, rnd := 0, ph := .ark }

/-! ### The host's driver -/

/-- R137: byte i of block q of a stream is plaintext byte 16q + i, or zero beyond the end. -/
def Obligations.LastBlockIsZeroPadded : Prop :=
  ∀ (plain : List Byte) (q : Nat) (i : Fin 16), q < (plain.length + 15) / 16 →
    (streamBlocks plain)[q]?.map (fun b => b[i]) = some (plain.getD (16 * q + i.val) 0x00)

/-- R138: output length is 16 * ceil(L / 16); for L = 0 it is 0. -/
def Obligations.StreamLengthIsRoundedUp : Prop :=
  ∀ (key : Block) (plain : List Byte), (encStream key plain).length = 16 * ((plain.length + 15) / 16)

/-- R140: plaintexts whose first n full blocks are identical have the same first n ciphertext blocks, whatever follows. -/
def Obligations.EqualLeadingBlocksEncryptEqually : Prop :=
  ∀ (key : Block) (a b : List Byte) (n : Nat), 16 * n ≤ a.length → 16 * n ≤ b.length →
    a.take (16 * n) = b.take (16 * n) → (encStream key a).take (16 * n) = (encStream key b).take (16 * n)

/-- R136, R58: the turns of ENCSTREAM, from any idle state and for every key and plaintext, give the host exactly the bytes of
ENCSTREAM(key, P) on dout, in order, and record no error. (The turns are one interleaving of the
host's script, in which every wait reads STATUS once: the model's choice, assumption log 19.) -/
def Obligations.StreamTurnsProduceTheCiphertext : Prop :=
  ∀ (key : Block) (plain : List Byte) (s : State) (rest : List Turn),
    s.seq.op = .idle → s.agenda = streamTurns key plain ++ rest →
    ∃ t, run (streamTurns key plain).length s = .next t ∧ t.agenda = rest ∧ t.ecode = s.ecode ∧
      (doutReads t.seen).flatMap Vector.toList = (doutReads s.seen).flatMap Vector.toList ++ encStream key plain
end

