-- ==== Sys2Proof/Laws/Datapath.lean ====
section
/-! SUPPORT. The datapath functions byte by byte and round by round, so that no later proof unfolds them. -/

namespace Sys2Proof.Machine

theorem ark_getElem (s k : Block) (i : Nat) (h : i < 16) : (ark s k)[i] = s[i] ^^^ k[i] := by simp [ark]

theorem sb_getElem (s : Block) (i : Nat) (h : i < 16) : (sb s)[i] = sbox s[i] := by simp [sb]

theorem sr_getElem (s : Block) (i : Fin 16) : (sr s)[i] = s[position (rowOf i) (rotatedCol (rowOf i) (colOf i))] := by
  simp [sr]

theorem mc_getElem (s : Block) (i : Fin 16) :
    (mc s)[i] = mcTerm s (rowOf i) (colOf i) 0 ^^^ mcTerm s (rowOf i) (colOf i) 1 ^^^
      mcTerm s (rowOf i) (colOf i) 2 ^^^ mcTerm s (rowOf i) (colOf i) 3 := by
  simp [mc]

theorem rowOf_position (r c : Fin 4) : rowOf (position r c) = r := by
  ext; simp only [rowOf, position]; omega

theorem colOf_position (r c : Fin 4) : colOf (position r c) = c := by
  ext; simp only [colOf, position]; omega

theorem position_rowOf_colOf (i : Fin 16) : position (rowOf i) (colOf i) = i := by
  ext; simp only [rowOf, colOf, position]; omega

theorem kexp_getElem (k : Block) (m : Round) (i : Nat) (h : i < 16) :
    (kexp k m)[i] = kexpByte k (kscore (lastWord k) m) i h := by
  simp [kexp]

theorem expand_getElem (key : Block) (m : Nat) (h : m < 11) : (expand key)[m] = roundKey key m h := by simp [expand]

/-- A schedule is the expansion of its round key 0 when each later one is made from the one before (42_key_expansion.md R92). -/
theorem eq_expand_of_chain (rk : Sched)
    (h : ∀ (m : Nat) (hm : m + 1 < 11), rk[m + 1] = kexp rk[m] ⟨m + 1, hm⟩) : rk = expand rk[0] := by
  have key : ∀ (m : Nat) (hm : m < 11), rk[m] = roundKey rk[0] m hm := by
    intro m
    induction m with
    | zero => intro _; rfl
    | succ m ih =>
      intro hm
      rw [h m hm, ih (by omega)]
      rfl
  ext1 m hm
  rw [expand_getElem, key m hm]

theorem fullRounds_succ (p : Block) (rk : Sched) (n : Nat) (h : n + 1 < 11) :
    fullRounds p rk (n + 1) h = ark (mc (sr (sb (fullRounds p rk n (by omega))))) rk[n + 1] := rfl

theorem stateAfter_succ (p : Block) (rk : Sched) (n : Nat) :
    stateAfter p rk (n + 1) = transformAt rk (encPosition n).1 (encPosition n).2 (stateAfter p rk n) := rfl

end Sys2Proof.Machine
end

