-- ==== Sys2Proof/Laws/Decode.lean ====
section
/-! SUPPORT. What the decoder reads from a command's bytes and from a reference word: the two encodings it knows. -/

namespace Sys2Proof

theorem Block.ofBytes_getElem (l : List Byte) (i : Nat) (h : i < 16) : (Block.ofBytes l)[i] = l.getD i 0 := by
  simp [Block.ofBytes]

/-- A block laid out in stream order and read back (20_memory.md R35). -/
theorem Block.ofBytes_toList_append (b : Block) (rest : List Byte) : Block.ofBytes (b.toList ++ rest) = b := by
  ext1 i h
  rw [Block.ofBytes_getElem]
  have hl : i < b.toList.length := by simpa using h
  rw [List.getD_eq_getElem?_getD, List.getElem?_append_left hl, List.getElem?_eq_getElem hl]
  simp

/-- The header byte of a command: its `op` bits and reserved bits are zero, its code is `cmd` (30_encoding.md R50). -/
theorem commandHeader_fields : ∀ cmd : BitVec 2,
    (0#6 ++ cmd : BitVec 8).extractLsb' 6 2 = 0 ∧ (0#6 ++ cmd : BitVec 8).extractLsb' 2 4 = 0 ∧
      (0#6 ++ cmd : BitVec 8).extractLsb' 0 2 = cmd := by decide

/-- The decoder reads a command from its bytes (30_encoding.md R50, R51). -/
theorem decode_commandBytes (cmd : BitVec 2) (din : Block) (rest : List Byte) :
    decode (commandBytes cmd din ++ rest) = .ok (decodeCommand cmd din, rest) := by
  obtain ⟨h1, h2, h3⟩ := commandHeader_fields cmd
  have hl : ¬ (din.toList ++ rest).length < 16 := by simp
  have hd : (din.toList ++ rest).drop 16 = rest := by
    rw [List.drop_append_of_le_length (by simp)]; simp
  simp only [commandBytes, List.cons_append, decode]
  rw [h1, h2, h3, hd, Block.ofBytes_toList_append, if_pos rfl, if_pos rfl, if_neg hl]

/-- The decoder reads a reference word whose `op` is not 00 as a micro-operation (30_encoding.md R59). -/
theorem decode_microOp (word : Byte) (rest : List Byte) (i : Instr) (hop : word.extractLsb' 6 2 ≠ 0b00)
    (h : decodeMicroOp word = .ok i) : decode (word :: rest) = .ok (i, rest) := by
  simp only [decode]
  rw [if_neg hop, h]

/-- The reference words of the five micro-operations decode to them (30_encoding.md R59). -/
theorem decodeMicroOp_refWord : ∀ r : Round,
    decodeMicroOp (refWord 0b01 r 0b00) = .ok (.kexp r) ∧ decodeMicroOp (refWord 0b10 r 0b00) = .ok (.ark r) ∧
      decodeMicroOp (refWord 0b10 r 0b01) = .ok (.sb r) ∧ decodeMicroOp (refWord 0b10 r 0b10) = .ok (.sr r) ∧
      decodeMicroOp (refWord 0b10 r 0b11) = .ok (.mc r) := by
  intro r
  fin_cases r <;> exact ⟨rfl, rfl, rfl, rfl, rfl⟩

/-- The `op` field of a reference word. -/
theorem refWord_op : ∀ (op : BitVec 2) (r : Round) (ph : BitVec 2), (refWord op r ph).extractLsb' 6 2 = op := by
  decide

end Sys2Proof
end

