-- ==== Sys2Proof/Laws/State.lean ====
section
/-! SUPPORT. What each shared operation on the state does to each field: one lemma per field per operation. -/

namespace Sys2Proof.Machine

@[simp] theorem State.raiseError_rk (s : State) (code : BitVec 2) : (s.raiseError code).rk = s.rk := rfl
@[simp] theorem State.raiseError_st (s : State) (code : BitVec 2) : (s.raiseError code).st = s.st := rfl
@[simp] theorem State.raiseError_dout (s : State) (code : BitVec 2) : (s.raiseError code).dout = s.dout := rfl
@[simp] theorem State.raiseError_seq (s : State) (code : BitVec 2) : (s.raiseError code).seq = s.seq := rfl
@[simp] theorem State.raiseError_krdy (s : State) (code : BitVec 2) : (s.raiseError code).krdy = s.krdy := rfl
@[simp] theorem State.raiseError_ovld (s : State) (code : BitVec 2) : (s.raiseError code).ovld = s.ovld := rfl
@[simp] theorem State.raiseError_ecode (s : State) (code : BitVec 2) : (s.raiseError code).ecode = if s.ecode = 0 then code else s.ecode := rfl
@[simp] theorem State.raiseError_agenda (s : State) (code : BitVec 2) : (s.raiseError code).agenda = s.agenda := rfl
@[simp] theorem State.raiseError_seen (s : State) (code : BitVec 2) : (s.raiseError code).seen = s.seen := rfl
@[simp] theorem State.raiseError_unitOut (s : State) (code : BitVec 2) : (s.raiseError code).unitOut = s.unitOut := rfl
@[simp] theorem State.raiseError_draws (s : State) (code : BitVec 2) : (s.raiseError code).draws = s.draws := rfl

@[simp] theorem State.acceptLdkey_rk (s : State) (key : Block) : (s.acceptLdkey key).rk = s.rk.set 0 key := rfl
@[simp] theorem State.acceptLdkey_st (s : State) (key : Block) : (s.acceptLdkey key).st = s.st := rfl
@[simp] theorem State.acceptLdkey_dout (s : State) (key : Block) : (s.acceptLdkey key).dout = s.dout := rfl
@[simp] theorem State.acceptLdkey_seq (s : State) (key : Block) : (s.acceptLdkey key).seq = { op := .kx, rnd := 1, ph := .ark } := rfl
@[simp] theorem State.acceptLdkey_krdy (s : State) (key : Block) : (s.acceptLdkey key).krdy = false := rfl
@[simp] theorem State.acceptLdkey_ovld (s : State) (key : Block) : (s.acceptLdkey key).ovld = s.ovld := rfl
@[simp] theorem State.acceptLdkey_ecode (s : State) (key : Block) : (s.acceptLdkey key).ecode = s.ecode := rfl
@[simp] theorem State.acceptLdkey_agenda (s : State) (key : Block) : (s.acceptLdkey key).agenda = s.agenda := rfl
@[simp] theorem State.acceptLdkey_seen (s : State) (key : Block) : (s.acceptLdkey key).seen = s.seen := rfl
@[simp] theorem State.acceptLdkey_unitOut (s : State) (key : Block) : (s.acceptLdkey key).unitOut = s.unitOut := rfl
@[simp] theorem State.acceptLdkey_draws (s : State) (key : Block) : (s.acceptLdkey key).draws = s.draws := rfl

@[simp] theorem State.acceptEnc_rk (s : State) (block : Block) : (s.acceptEnc block).rk = s.rk := rfl
@[simp] theorem State.acceptEnc_st (s : State) (block : Block) : (s.acceptEnc block).st = block := rfl
@[simp] theorem State.acceptEnc_dout (s : State) (block : Block) : (s.acceptEnc block).dout = s.dout := rfl
@[simp] theorem State.acceptEnc_seq (s : State) (block : Block) : (s.acceptEnc block).seq = { op := .en, rnd := 0, ph := .ark } := rfl
@[simp] theorem State.acceptEnc_krdy (s : State) (block : Block) : (s.acceptEnc block).krdy = s.krdy := rfl
@[simp] theorem State.acceptEnc_ovld (s : State) (block : Block) : (s.acceptEnc block).ovld = false := rfl
@[simp] theorem State.acceptEnc_ecode (s : State) (block : Block) : (s.acceptEnc block).ecode = s.ecode := rfl
@[simp] theorem State.acceptEnc_agenda (s : State) (block : Block) : (s.acceptEnc block).agenda = s.agenda := rfl
@[simp] theorem State.acceptEnc_seen (s : State) (block : Block) : (s.acceptEnc block).seen = s.seen := rfl
@[simp] theorem State.acceptEnc_unitOut (s : State) (block : Block) : (s.acceptEnc block).unitOut = s.unitOut := rfl
@[simp] theorem State.acceptEnc_draws (s : State) (block : Block) : (s.acceptEnc block).draws = s.draws := rfl

@[simp] theorem State.goTo_rk (s : State) (op : SeqOp) (rnd : Round) (ph : Phase) : (s.goTo op rnd ph).rk = s.rk := rfl
@[simp] theorem State.goTo_st (s : State) (op : SeqOp) (rnd : Round) (ph : Phase) : (s.goTo op rnd ph).st = s.st := rfl
@[simp] theorem State.goTo_dout (s : State) (op : SeqOp) (rnd : Round) (ph : Phase) : (s.goTo op rnd ph).dout = s.dout := rfl
@[simp] theorem State.goTo_seq (s : State) (op : SeqOp) (rnd : Round) (ph : Phase) : (s.goTo op rnd ph).seq = { op := op, rnd := rnd, ph := ph } := rfl
@[simp] theorem State.goTo_krdy (s : State) (op : SeqOp) (rnd : Round) (ph : Phase) : (s.goTo op rnd ph).krdy = s.krdy := rfl
@[simp] theorem State.goTo_ovld (s : State) (op : SeqOp) (rnd : Round) (ph : Phase) : (s.goTo op rnd ph).ovld = s.ovld := rfl
@[simp] theorem State.goTo_ecode (s : State) (op : SeqOp) (rnd : Round) (ph : Phase) : (s.goTo op rnd ph).ecode = s.ecode := rfl
@[simp] theorem State.goTo_agenda (s : State) (op : SeqOp) (rnd : Round) (ph : Phase) : (s.goTo op rnd ph).agenda = s.agenda := rfl
@[simp] theorem State.goTo_seen (s : State) (op : SeqOp) (rnd : Round) (ph : Phase) : (s.goTo op rnd ph).seen = s.seen := rfl
@[simp] theorem State.goTo_unitOut (s : State) (op : SeqOp) (rnd : Round) (ph : Phase) : (s.goTo op rnd ph).unitOut = s.unitOut := rfl
@[simp] theorem State.goTo_draws (s : State) (op : SeqOp) (rnd : Round) (ph : Phase) : (s.goTo op rnd ph).draws = s.draws := rfl

@[simp] theorem State.setSt_rk (s : State) (v : Block) : (s.setSt v).rk = s.rk := rfl
@[simp] theorem State.setSt_st (s : State) (v : Block) : (s.setSt v).st = v := rfl
@[simp] theorem State.setSt_dout (s : State) (v : Block) : (s.setSt v).dout = s.dout := rfl
@[simp] theorem State.setSt_seq (s : State) (v : Block) : (s.setSt v).seq = s.seq := rfl
@[simp] theorem State.setSt_krdy (s : State) (v : Block) : (s.setSt v).krdy = s.krdy := rfl
@[simp] theorem State.setSt_ovld (s : State) (v : Block) : (s.setSt v).ovld = s.ovld := rfl
@[simp] theorem State.setSt_ecode (s : State) (v : Block) : (s.setSt v).ecode = s.ecode := rfl
@[simp] theorem State.setSt_agenda (s : State) (v : Block) : (s.setSt v).agenda = s.agenda := rfl
@[simp] theorem State.setSt_seen (s : State) (v : Block) : (s.setSt v).seen = s.seen := rfl
@[simp] theorem State.setSt_unitOut (s : State) (v : Block) : (s.setSt v).unitOut = s.unitOut := rfl
@[simp] theorem State.setSt_draws (s : State) (v : Block) : (s.setSt v).draws = s.draws := rfl

@[simp] theorem State.setRk_rk (s : State) (m : Round) (v : Block) : (s.setRk m v).rk = s.rk.set m.val v := rfl
@[simp] theorem State.setRk_st (s : State) (m : Round) (v : Block) : (s.setRk m v).st = s.st := rfl
@[simp] theorem State.setRk_dout (s : State) (m : Round) (v : Block) : (s.setRk m v).dout = s.dout := rfl
@[simp] theorem State.setRk_seq (s : State) (m : Round) (v : Block) : (s.setRk m v).seq = s.seq := rfl
@[simp] theorem State.setRk_krdy (s : State) (m : Round) (v : Block) : (s.setRk m v).krdy = s.krdy := rfl
@[simp] theorem State.setRk_ovld (s : State) (m : Round) (v : Block) : (s.setRk m v).ovld = s.ovld := rfl
@[simp] theorem State.setRk_ecode (s : State) (m : Round) (v : Block) : (s.setRk m v).ecode = s.ecode := rfl
@[simp] theorem State.setRk_agenda (s : State) (m : Round) (v : Block) : (s.setRk m v).agenda = s.agenda := rfl
@[simp] theorem State.setRk_seen (s : State) (m : Round) (v : Block) : (s.setRk m v).seen = s.seen := rfl
@[simp] theorem State.setRk_unitOut (s : State) (m : Round) (v : Block) : (s.setRk m v).unitOut = s.unitOut := rfl
@[simp] theorem State.setRk_draws (s : State) (m : Round) (v : Block) : (s.setRk m v).draws = s.draws := rfl

@[simp] theorem State.completeLdkey_rk (s : State) : s.completeLdkey.rk = s.rk := rfl
@[simp] theorem State.completeLdkey_st (s : State) : s.completeLdkey.st = s.st := rfl
@[simp] theorem State.completeLdkey_dout (s : State) : s.completeLdkey.dout = s.dout := rfl
@[simp] theorem State.completeLdkey_seq (s : State) : s.completeLdkey.seq = Seq.idle := rfl
@[simp] theorem State.completeLdkey_krdy (s : State) : s.completeLdkey.krdy = true := rfl
@[simp] theorem State.completeLdkey_ovld (s : State) : s.completeLdkey.ovld = s.ovld := rfl
@[simp] theorem State.completeLdkey_ecode (s : State) : s.completeLdkey.ecode = s.ecode := rfl
@[simp] theorem State.completeLdkey_agenda (s : State) : s.completeLdkey.agenda = s.agenda := rfl
@[simp] theorem State.completeLdkey_seen (s : State) : s.completeLdkey.seen = s.seen := rfl
@[simp] theorem State.completeLdkey_unitOut (s : State) : s.completeLdkey.unitOut = s.unitOut := rfl
@[simp] theorem State.completeLdkey_draws (s : State) : s.completeLdkey.draws = s.draws := rfl

@[simp] theorem State.completeEnc_rk (s : State) (v : Block) : (s.completeEnc v).rk = s.rk := rfl
@[simp] theorem State.completeEnc_st (s : State) (v : Block) : (s.completeEnc v).st = s.st := rfl
@[simp] theorem State.completeEnc_dout (s : State) (v : Block) : (s.completeEnc v).dout = v := rfl
@[simp] theorem State.completeEnc_seq (s : State) (v : Block) : (s.completeEnc v).seq = Seq.idle := rfl
@[simp] theorem State.completeEnc_krdy (s : State) (v : Block) : (s.completeEnc v).krdy = s.krdy := rfl
@[simp] theorem State.completeEnc_ovld (s : State) (v : Block) : (s.completeEnc v).ovld = true := rfl
@[simp] theorem State.completeEnc_ecode (s : State) (v : Block) : (s.completeEnc v).ecode = s.ecode := rfl
@[simp] theorem State.completeEnc_agenda (s : State) (v : Block) : (s.completeEnc v).agenda = s.agenda := rfl
@[simp] theorem State.completeEnc_seen (s : State) (v : Block) : (s.completeEnc v).seen = s.seen := rfl
@[simp] theorem State.completeEnc_unitOut (s : State) (v : Block) : (s.completeEnc v).unitOut = s.unitOut := rfl
@[simp] theorem State.completeEnc_draws (s : State) (v : Block) : (s.completeEnc v).draws = s.draws := rfl

@[simp] theorem State.resetCore_rk (s : State) : s.resetCore.rk = (Vector.ofFn fun m => s.drawn m.val) := rfl
@[simp] theorem State.resetCore_st (s : State) : s.resetCore.st = s.drawn 11 := rfl
@[simp] theorem State.resetCore_dout (s : State) : s.resetCore.dout = s.drawn 12 := rfl
@[simp] theorem State.resetCore_seq (s : State) : s.resetCore.seq = Seq.idle := rfl
@[simp] theorem State.resetCore_krdy (s : State) : s.resetCore.krdy = false := rfl
@[simp] theorem State.resetCore_ovld (s : State) : s.resetCore.ovld = false := rfl
@[simp] theorem State.resetCore_ecode (s : State) : s.resetCore.ecode = 0 := rfl
@[simp] theorem State.resetCore_agenda (s : State) : s.resetCore.agenda = s.agenda := rfl
@[simp] theorem State.resetCore_seen (s : State) : s.resetCore.seen = s.seen := rfl
@[simp] theorem State.resetCore_unitOut (s : State) : s.resetCore.unitOut = s.unitOut := rfl
@[simp] theorem State.resetCore_draws (s : State) : s.resetCore.draws = s.draws + 13 := rfl

@[simp] theorem State.replyWith_rk (s : State) (r : Reply) : (s.replyWith r).rk = s.rk := rfl
@[simp] theorem State.replyWith_st (s : State) (r : Reply) : (s.replyWith r).st = s.st := rfl
@[simp] theorem State.replyWith_dout (s : State) (r : Reply) : (s.replyWith r).dout = s.dout := rfl
@[simp] theorem State.replyWith_seq (s : State) (r : Reply) : (s.replyWith r).seq = s.seq := rfl
@[simp] theorem State.replyWith_krdy (s : State) (r : Reply) : (s.replyWith r).krdy = s.krdy := rfl
@[simp] theorem State.replyWith_ovld (s : State) (r : Reply) : (s.replyWith r).ovld = s.ovld := rfl
@[simp] theorem State.replyWith_ecode (s : State) (r : Reply) : (s.replyWith r).ecode = s.ecode := rfl
@[simp] theorem State.replyWith_agenda (s : State) (r : Reply) : (s.replyWith r).agenda = s.agenda := rfl
@[simp] theorem State.replyWith_seen (s : State) (r : Reply) : (s.replyWith r).seen = s.seen ++ [r] := rfl
@[simp] theorem State.replyWith_unitOut (s : State) (r : Reply) : (s.replyWith r).unitOut = s.unitOut := rfl
@[simp] theorem State.replyWith_draws (s : State) (r : Reply) : (s.replyWith r).draws = s.draws := rfl

@[simp] theorem State.countDraw_rk (s : State) : s.countDraw.rk = s.rk := rfl
@[simp] theorem State.countDraw_st (s : State) : s.countDraw.st = s.st := rfl
@[simp] theorem State.countDraw_dout (s : State) : s.countDraw.dout = s.dout := rfl
@[simp] theorem State.countDraw_seq (s : State) : s.countDraw.seq = s.seq := rfl
@[simp] theorem State.countDraw_krdy (s : State) : s.countDraw.krdy = s.krdy := rfl
@[simp] theorem State.countDraw_ovld (s : State) : s.countDraw.ovld = s.ovld := rfl
@[simp] theorem State.countDraw_ecode (s : State) : s.countDraw.ecode = s.ecode := rfl
@[simp] theorem State.countDraw_agenda (s : State) : s.countDraw.agenda = s.agenda := rfl
@[simp] theorem State.countDraw_seen (s : State) : s.countDraw.seen = s.seen := rfl
@[simp] theorem State.countDraw_unitOut (s : State) : s.countDraw.unitOut = s.unitOut := rfl
@[simp] theorem State.countDraw_draws (s : State) : s.countDraw.draws = s.draws + 1 := rfl

@[simp] theorem State.deliver_rk (s : State) (v : UnitResult) : (s.deliver v).rk = s.rk := rfl
@[simp] theorem State.deliver_st (s : State) (v : UnitResult) : (s.deliver v).st = s.st := rfl
@[simp] theorem State.deliver_dout (s : State) (v : UnitResult) : (s.deliver v).dout = s.dout := rfl
@[simp] theorem State.deliver_seq (s : State) (v : UnitResult) : (s.deliver v).seq = s.seq := rfl
@[simp] theorem State.deliver_krdy (s : State) (v : UnitResult) : (s.deliver v).krdy = s.krdy := rfl
@[simp] theorem State.deliver_ovld (s : State) (v : UnitResult) : (s.deliver v).ovld = s.ovld := rfl
@[simp] theorem State.deliver_ecode (s : State) (v : UnitResult) : (s.deliver v).ecode = s.ecode := rfl
@[simp] theorem State.deliver_agenda (s : State) (v : UnitResult) : (s.deliver v).agenda = s.agenda := rfl
@[simp] theorem State.deliver_seen (s : State) (v : UnitResult) : (s.deliver v).seen = s.seen := rfl
@[simp] theorem State.deliver_unitOut (s : State) (v : UnitResult) : (s.deliver v).unitOut = some v := rfl
@[simp] theorem State.deliver_draws (s : State) (v : UnitResult) : (s.deliver v).draws = s.draws := rfl

@[simp] theorem State.popTurn_rk (s : State) : s.popTurn.rk = s.rk := rfl
@[simp] theorem State.popTurn_st (s : State) : s.popTurn.st = s.st := rfl
@[simp] theorem State.popTurn_dout (s : State) : s.popTurn.dout = s.dout := rfl
@[simp] theorem State.popTurn_seq (s : State) : s.popTurn.seq = s.seq := rfl
@[simp] theorem State.popTurn_krdy (s : State) : s.popTurn.krdy = s.krdy := rfl
@[simp] theorem State.popTurn_ovld (s : State) : s.popTurn.ovld = s.ovld := rfl
@[simp] theorem State.popTurn_ecode (s : State) : s.popTurn.ecode = s.ecode := rfl
@[simp] theorem State.popTurn_agenda (s : State) : s.popTurn.agenda = s.agenda.tail := rfl
@[simp] theorem State.popTurn_seen (s : State) : s.popTurn.seen = s.seen := rfl
@[simp] theorem State.popTurn_unitOut (s : State) : s.popTurn.unitOut = s.unitOut := rfl
@[simp] theorem State.popTurn_draws (s : State) : s.popTurn.draws = s.draws := rfl

end Sys2Proof.Machine
end

