-- ==== Sys2Proof/Laws/Ops.lean ====
section
/-! SUPPORT. One lemma per shared operation that says everything it can do, in the terms of the rules. -/

namespace Sys2Proof.Machine

/-- Once an error is recorded, raising another changes nothing (60_exceptions.md R153, R154). -/
theorem State.raiseError_of_ne (s : State) (code : BitVec 2) (h : s.ecode ≠ 0) : s.raiseError code = s := by
  rw [State.raiseError, if_neg h]

/-- The first error is recorded (60_exceptions.md R153). -/
theorem State.raiseError_of_zero (s : State) (code : BitVec 2) (h : s.ecode = 0) :
    s.raiseError code = { s with ecode := code } := by
  rw [State.raiseError, if_pos h]

/-- An error already recorded is not overwritten (60_exceptions.md R154). -/
theorem State.raiseError_keeps (s : State) (code : BitVec 2) (h : s.ecode ≠ 0) :
    (s.raiseError code).ecode = s.ecode := by rw [s.raiseError_of_ne code h]

/-- BUSY is a function of SEQ alone (10_state.md R17). -/
theorem State.busy_congr {s t : State} (h : s.seq = t.seq) : s.busy = t.busy := by simp [State.busy, h]

theorem State.busy_eq_false_iff (s : State) : s.busy = false ↔ s.seq.op = .idle := by
  simp [State.busy]

theorem State.busy_eq_true_iff (s : State) : s.busy = true ↔ s.seq.op ≠ .idle := by
  simp [State.busy]

/-- BUSY is 1 from acceptance (10_state.md R17). -/
@[simp] theorem State.busy_acceptLdkey (s : State) (k : Block) : (s.acceptLdkey k).busy = true := rfl
@[simp] theorem State.busy_acceptEnc (s : State) (p : Block) : (s.acceptEnc p).busy = true := rfl

/-- BUSY falls at completion (10_state.md R17). -/
@[simp] theorem State.busy_completeLdkey (s : State) : s.completeLdkey.busy = false := rfl
@[simp] theorem State.busy_completeEnc (s : State) (v : Block) : (s.completeEnc v).busy = false := rfl
@[simp] theorem State.busy_resetCore (s : State) : s.resetCore.busy = false := rfl

@[simp] theorem State.busy_popTurn (s : State) : s.popTurn.busy = s.busy := rfl
@[simp] theorem State.busy_raiseError (s : State) (c : BitVec 2) : (s.raiseError c).busy = s.busy := rfl
@[simp] theorem State.busy_replyWith (s : State) (r : Reply) : (s.replyWith r).busy = s.busy := rfl
@[simp] theorem State.busy_countDraw (s : State) : s.countDraw.busy = s.busy := rfl
@[simp] theorem State.busy_deliver (s : State) (v : UnitResult) : (s.deliver v).busy = s.busy := rfl

/-- Acceptance of LDKEY writes round key 0 (45_commands.md R122). -/
theorem State.acceptLdkey_rk_zero (s : State) (k : Block) : (s.acceptLdkey k).rk[0] = k := by simp

/-- Writing one round key: that one is written, the others stay (44_block_encrypt.md R112). -/
theorem State.setRk_get (s : State) (m j : Round) (v : Block) :
    (s.setRk m v).rk[j] = if m = j then v else s.rk[j] := by
  simp only [State.setRk_rk, Fin.getElem_fin, Vector.getElem_set, Fin.ext_iff]

end Sys2Proof.Machine
end

