-- ==== Sys2Proof/Laws/Step.lean ====
section
/-! SUPPORT. Which operation each turn selects, and what one step can be. -/

namespace Sys2Proof.Machine

/-- The step when an operation is selected. -/
theorem step_of_nextOp {s : State} {i : Instr} (h : s.nextOp = some i) : step s = exec i s.popTurn := by
  simp [step, h]

/-- The step when none is. -/
theorem step_of_no_op {s : State} (h : s.nextOp = none) : step s = .next s.popTurn := by
  simp [step, h]

/-- Everything a step can be: the execution of the selected operation after the turn is taken, or the turn alone. -/
theorem step_cases {s : State} {o : Host.Outcome State Fault Refusal} (h : step s = o) :
    (∃ i, s.nextOp = some i ∧ exec i s.popTurn = o) ∨ (s.nextOp = none ∧ o = .next s.popTurn) := by
  cases hn : s.nextOp with
  | some i => exact .inl ⟨i, rfl, by rw [← step_of_nextOp hn, h]⟩
  | none => exact .inr ⟨rfl, by rw [← h, step_of_no_op hn]⟩

/-- An issued command selects its operation (30_encoding.md R51). -/
theorem nextOp_issue {s : State} {cmd : BitVec 2} {din : Block} (h : s.turn = .issue cmd din) :
    s.nextOp = some (decodeCommand cmd din) := by
  have hd := decode_commandBytes cmd din []
  rw [List.append_nil] at hd
  simp [State.nextOp, State.nextWord, h, hd]

theorem nextOp_readStatus {s : State} (h : s.turn = .readStatus) : s.nextOp = some .rdstat := by
  simp [State.nextOp, State.nextWord, h, Turn.wordless]

theorem nextOp_readDout {s : State} (h : s.turn = .readDout) : s.nextOp = some .rdout := by
  simp [State.nextOp, State.nextWord, h, Turn.wordless]

theorem nextOp_reset {s : State} (h : s.turn = .reset) : s.nextOp = some .reset := by
  simp [State.nextOp, State.nextWord, h, Turn.wordless]

theorem nextOp_unit {s : State} {call : UnitCall} (h : s.turn = .unit call) : s.nextOp = some call.instr := by
  simp [State.nextOp, State.nextWord, h, Turn.wordless]

/-- An idle core selects no operation (70_reset_and_hazards.md R171). -/
theorem nextOp_core_idle {s : State} (h : s.turn = .core) (hb : s.busy = false) : s.nextOp = none := by
  simp [State.nextOp, State.nextWord, h, hb, Turn.wordless]

/-- The operation that a busy core's position selects (30_encoding.md R59). -/
def Seq.selected (q : Seq) : Option Instr :=
  match q.op, q.ph with
  | .kx, .ark => some (.kexp q.rnd)
  | .en, .ark => some (.ark q.rnd)
  | .en, .sb => some (.sb q.rnd)
  | .en, .sr => some (.sr q.rnd)
  | .en, .mc => some (.mc q.rnd)
  | .kx, .sb | .kx, .sr | .kx, .mc => none
  | .idle, .ark | .idle, .sb | .idle, .sr | .idle, .mc => none

/-- What a selected operation says about the position: the phase and the round are the operation's. -/
theorem selected_cases {q : Seq} {i : Instr} (h : q.selected = some i) :
    (i = .kexp q.rnd ∧ q = { op := .kx, rnd := q.rnd, ph := .ark }) ∨
    (i = .ark q.rnd ∧ q = { op := .en, rnd := q.rnd, ph := .ark }) ∨
    (i = .sb q.rnd ∧ q = { op := .en, rnd := q.rnd, ph := .sb }) ∨
    (i = .sr q.rnd ∧ q = { op := .en, rnd := q.rnd, ph := .sr }) ∨
    (i = .mc q.rnd ∧ q = { op := .en, rnd := q.rnd, ph := .mc }) := by
  obtain ⟨op, r, ph⟩ := q
  cases op <;> cases ph <;> simp_all [Seq.selected]

/-- The decoder on the reference word of a busy core's position: the operation selected, or no row of the table. -/
theorem decode_seqWord (q : Seq) (hq : q.op ≠ .idle) :
    decode [q.word] = match q.selected with
      | some i => .ok (i, [])
      | none => .error .noSuchMicroOp := by
  obtain ⟨op, r, ph⟩ := q
  cases op with
  | idle => exact absurd rfl hq
  | kx => cases ph <;> fin_cases r <;> rfl
  | en => cases ph <;> fin_cases r <;> rfl

/-- The core's turn selects the operation of its position. -/
theorem nextOp_core {s : State} (h : s.turn = .core) : s.nextOp = s.seq.selected := by
  cases hb : s.busy with
  | false =>
    have hi := (s.busy_eq_false_iff).1 hb
    rw [nextOp_core_idle h hb, Seq.selected, hi]
    cases s.seq.ph <;> rfl
  | true =>
    have hd := decode_seqWord s.seq ((s.busy_eq_true_iff).1 hb)
    simp only [State.nextOp, State.nextWord, h, hb, if_true, hd]
    cases s.seq.selected <;> rfl

end Sys2Proof.Machine
end

