-- ==== Sys2Proof/Laws/Safety.lean ====
section
/-! SUPPORT. The small lemmas of the terms in Safety.lean and Machine/HostDriver.lean. -/

namespace Sys2Proof.Machine

theorem run_succ_of_step {s t : State} (n : Nat) (h : step s = .next t) : run (n + 1) s = run n t := by
  simp [run, h]

/-- Two runs in a row are one run. -/
theorem run_add {s t : State} (m n : Nat) (h : run m s = .next t) : run (m + n) s = run n t := by
  induction m generalizing s with
  | zero =>
    cases h
    rw [Nat.zero_add]
  | succ m ih =>
    rw [Nat.add_right_comm, run]
    rw [run] at h
    cases hs : step s with
    | next u =>
      rw [hs] at h
      exact ih h
    | fault f => rw [hs] at h; cases h
    | refused r => rw [hs] at h; cases h

/-- The invariant speaks of SEQ, RK and KRDY only. -/
theorem State.Inv.congr {s t : State} (hi : s.Inv) (hq : t.seq = s.seq) (hr : t.rk = s.rk) (hk : t.krdy = s.krdy) :
    t.Inv where
  legal := by rw [hq]; exact hi.legal
  schedule := by rw [hr, hk]; exact hi.schedule
  encrypting := by rw [hq, hk]; exact hi.encrypting
  expanding := by rw [hq, hk]; exact hi.expanding
  partialSchedule := by rw [hq, hr]; exact hi.partialSchedule

/-- A core in the middle of an encryption meets the invariant when its position is legal and its schedule is one. -/
theorem State.Inv.of_encrypting {s : State} (hq : s.seq.op = .en) (hl : s.seq.legal = true) (hk : s.krdy = true)
    (hr : s.rk = expand s.rk[0]) : s.Inv where
  legal := hl
  schedule := fun _ => hr
  encrypting := fun _ => hk
  expanding := fun h => by rw [hq] at h; cases h
  partialSchedule := fun h => by rw [hq] at h; cases h

/-- An idle core meets the invariant when its schedule, if ready, is one. -/
theorem State.Inv.of_idle {s : State} (hq : s.seq = Seq.idle) (hr : s.krdy = true → s.rk = expand s.rk[0]) : s.Inv where
  legal := by rw [hq]; rfl
  schedule := hr
  encrypting := fun h => by rw [hq] at h; cases h
  expanding := fun h => by rw [hq] at h; cases h
  partialSchedule := fun h => by rw [hq] at h; cases h

theorem doutReads_append (a b : List Reply) : doutReads (a ++ b) = doutReads a ++ doutReads b := by
  induction a with
  | nil => rfl
  | cons r a ih => cases r <;> simp [doutReads, ih]

/-- The forty positions follow one another as the sequencer's rules say (44_block_encrypt.md R111, R113). -/
theorem encPosition_next : ∀ n : Fin 39, encPosition (n.val + 1) =
    match (encPosition n.val).2 with
    | .ark => ((encPosition n.val).1 + 1, .sb)
    | .sb => ((encPosition n.val).1, .sr)
    | .sr => ((encPosition n.val).1, if (encPosition n.val).1.val < 10 then .mc else .ark)
    | .mc => ((encPosition n.val).1, .ark) := by decide

/-- The forty positions are distinct, so a position says how many steps were taken. -/
theorem encPosition_injective : ∀ m n : Fin 40, encPosition m.val = encPosition n.val → m = n := by decide +kernel

end Sys2Proof.Machine
end

