-- ==== Sys2Proof/Laws/HostScript.lean ====
section
/-! SUPPORT. What a move of a session can be, how the sequencer advances at the core's turns, and that a `WAIT` ends in every
fair interleaving (30_encoding.md R58). -/

namespace Sys2Proof.Machine

/-! ### A turn taken now -/

theorem takeTurn_issue (s : State) (cmd : BitVec 2) (din : Block) :
    s.takeTurn (.issue cmd din) = exec (decodeCommand cmd din) s :=
  step_of_nextOp (nextOp_issue (s := { s with agenda := .issue cmd din :: s.agenda }) rfl)

theorem takeTurn_readStatus (s : State) : s.takeTurn .readStatus = .next (s.replyWith (.status s.status)) :=
  step_of_nextOp (nextOp_readStatus (s := { s with agenda := .readStatus :: s.agenda }) rfl)

theorem takeTurn_readDout (s : State) : s.takeTurn .readDout = exec .rdout s :=
  step_of_nextOp (nextOp_readDout (s := { s with agenda := .readDout :: s.agenda }) rfl)

/-- The core's turn: the operation its position selects, or nothing. -/
theorem takeTurn_core (s : State) :
    s.takeTurn .core = match s.seq.selected with
      | some i => exec i s
      | none => .next s := by
  have h := nextOp_core (s := { s with agenda := .core :: s.agenda }) rfl
  rw [State.takeTurn, step, h]
  cases s.seq.selected <;> rfl

/-! ### What STATUS shows -/

theorem status_bits (s : State) : s.status.getLsbD 0 = s.krdy ∧ s.status.getLsbD 1 = s.busy ∧ s.status.getLsbD 2 = s.ovld := by
  unfold State.status
  generalize s.err = e, s.busy = b, s.krdy = k, s.ovld = o, s.ecode = c
  revert c
  cases e <;> cases b <;> cases k <;> cases o <;> decide

@[simp] theorem shownBy_idle (s : State) : Awaited.idle.shownBy s.status = !s.busy := by
  simp only [Awaited.shownBy, (status_bits s).2.1]

@[simp] theorem shownBy_keyReady (s : State) : Awaited.keyReady.shownBy s.status = s.krdy := (status_bits s).1

@[simp] theorem shownBy_outputValid (s : State) : Awaited.outputValid.shownBy s.status = s.ovld := (status_bits s).2.2

/-! ### The moves of a session -/

@[simp] theorem move_host_silent (s : State) :
    Session.move { script := [], core := s } .host = .next { script := [], core := s } := rfl

/-- A wait reads STATUS once and goes on exactly when the word read shows what is waited for. -/
theorem move_host_wait (c : Awaited) (rest : List HostAction) (s : State) :
    Session.move { script := .wait c :: rest, core := s } .host = .next
      { script := if c.shownBy s.status then rest else .wait c :: rest
        core := s.replyWith (.status s.status) } := by
  simp [Session.move, HostAction.turn, takeTurn_readStatus, Session.resume, HostAction.finished, State.replyWith]

/-- An issue is one event; what the core does with it is the command's meaning. -/
theorem move_host_issue (cmd : BitVec 2) (din : Block) (rest : List HostAction) (s : State) :
    Session.move { script := .issue cmd din :: rest, core := s } .host =
      Session.resume (fun _ => rest) (exec (decodeCommand cmd din) s) := by
  simp [Session.move, HostAction.turn, takeTurn_issue, HostAction.finished]

theorem move_host_readDout (rest : List HostAction) (s : State) :
    Session.move { script := .readDout :: rest, core := s } .host = Session.resume (fun _ => rest) (exec .rdout s) := by
  simp [Session.move, HostAction.turn, takeTurn_readDout, HostAction.finished]

theorem moves_cons {m : Mover} {d e : Session} (ms : List Mover) (h : d.move m = .next e) :
    Session.moves (m :: ms) d = Session.moves ms e := by
  simp [Session.moves, h]

/-- Two interleavings in a row are one. -/
theorem moves_append {d e : Session} {ms : List Mover} (ns : List Mover) (h : Session.moves ms d = .next e) :
    Session.moves (ms ++ ns) d = Session.moves ns e := by
  induction ms generalizing d with
  | nil =>
    cases h
    rfl
  | cons m ms ih =>
    rw [List.cons_append, Session.moves]
    rw [Session.moves] at h
    cases hm : d.move m with
    | next u =>
      rw [hm] at h
      exact ih h
    | fault f => rw [hm] at h; cases h
    | refused r => rw [hm] at h; cases h

/-! ### Every session is an agenda -/

/-- The same state with another agenda. -/
def State.withAgenda (s : State) (turns : List Turn) : State := { s with agenda := turns }

@[simp] theorem State.withAgenda_rk (s : State) (turns : List Turn) : (s.withAgenda turns).rk = s.rk := rfl
@[simp] theorem State.withAgenda_st (s : State) (turns : List Turn) : (s.withAgenda turns).st = s.st := rfl
@[simp] theorem State.withAgenda_dout (s : State) (turns : List Turn) : (s.withAgenda turns).dout = s.dout := rfl
@[simp] theorem State.withAgenda_seq (s : State) (turns : List Turn) : (s.withAgenda turns).seq = s.seq := rfl
@[simp] theorem State.withAgenda_krdy (s : State) (turns : List Turn) : (s.withAgenda turns).krdy = s.krdy := rfl
@[simp] theorem State.withAgenda_ovld (s : State) (turns : List Turn) : (s.withAgenda turns).ovld = s.ovld := rfl
@[simp] theorem State.withAgenda_ecode (s : State) (turns : List Turn) : (s.withAgenda turns).ecode = s.ecode := rfl
@[simp] theorem State.withAgenda_agenda (s : State) (turns : List Turn) : (s.withAgenda turns).agenda = turns := rfl
@[simp] theorem State.withAgenda_seen (s : State) (turns : List Turn) : (s.withAgenda turns).seen = s.seen := rfl
@[simp] theorem State.withAgenda_unitOut (s : State) (turns : List Turn) : (s.withAgenda turns).unitOut = s.unitOut := rfl
@[simp] theorem State.withAgenda_draws (s : State) (turns : List Turn) : (s.withAgenda turns).draws = s.draws := rfl
@[simp] theorem State.busy_withAgenda (s : State) (turns : List Turn) : (s.withAgenda turns).busy = s.busy := rfl

/-- The outcome with another agenda in its state. -/
def agendaReplaced (turns : List Turn) : Host.Outcome State Fault Refusal → Host.Outcome State Fault Refusal
  | .next t => .next (t.withAgenda turns)
  | .fault f => .fault f
  | .refused r => .refused r

/-- No operation reads or writes the agenda (assumption log 6). -/
theorem exec_withAgenda (i : Instr) (s : State) (turns : List Turn) :
    exec i (s.withAgenda turns) = agendaReplaced turns (exec i s) := by
  cases i <;>
    simp only [exec, execNop, execLdkey, execEnc, execRsvd, execRdstat, execRdout, execReset, execKexp, execArk, execSb, execSr,
      execMc, execGfmul, execXtime, execSbox, execKscore, execExpand, execEncblk, State.withAgenda_rk, State.withAgenda_st,
      State.withAgenda_seq, State.withAgenda_krdy, State.withAgenda_ovld, State.busy_withAgenda,
      apply_ite (agendaReplaced turns), apply_dite (agendaReplaced turns)] <;>
    rfl

/-- A step takes the turn at the head of the agenda as if it were taken now. -/
theorem step_of_takeTurn {s u : State} {t : Turn} (turns : List Turn) (h : s.takeTurn t = .next u) :
    step (s.withAgenda (t :: turns)) = .next (u.withAgenda turns) := by
  have hop : (s.withAgenda (t :: turns)).nextOp = (s.withAgenda (t :: s.agenda)).nextOp := rfl
  change step (s.withAgenda (t :: s.agenda)) = _ at h
  rw [step] at h
  rw [step, hop]
  cases hn : (s.withAgenda (t :: s.agenda)).nextOp with
  | some i =>
    rw [hn] at h
    have hs : exec i s = .next u := h
    exact (exec_withAgenda i s turns).trans (by rw [hs]; rfl)
  | none =>
    rw [hn] at h
    cases h
    rfl

/-- Host and core moving side by side are a run of the machine on some agenda, so what is proved of every agenda holds of a host
that reads before it goes on (assumption log 6, 19). -/
theorem moves_are_turns {d e : Session} {ms : List Mover} (h : Session.moves ms d = .next e) :
    ∃ turns, ∀ rest, run turns.length (d.core.withAgenda (turns ++ rest)) = .next (e.core.withAgenda rest) := by
  have one : ∀ (d e : Session) (m : Mover), d.move m = .next e →
      e.core = d.core ∨ ∃ t, d.core.takeTurn t = .next e.core := by
    intro d e m hm
    have resumed : ∀ (script : State → List HostAction) (o : Host.Outcome State Fault Refusal),
        Session.resume script o = .next e → o = .next e.core := by
      intro script o ho
      cases o <;> cases ho
      rfl
    obtain ⟨script, s⟩ := d
    cases m with
    | core => exact .inr ⟨.core, resumed _ _ hm⟩
    | host =>
      cases script with
      | nil =>
        cases hm
        exact .inl rfl
      | cons a rest => exact .inr ⟨a.turn, resumed _ _ hm⟩
  induction ms generalizing d with
  | nil =>
    cases h
    exact ⟨[], fun _ => rfl⟩
  | cons m ms ih =>
    rw [Session.moves] at h
    cases hm : d.move m with
    | next u =>
      rw [hm] at h
      obtain ⟨turns, ht⟩ := ih h
      obtain hs | ⟨t, hs⟩ := one d u m hm
      · exact ⟨turns, by rw [← hs]; exact ht⟩
      · exact ⟨t :: turns, fun rest => by
          rw [List.length_cons, List.cons_append, run_succ_of_step _ (step_of_takeTurn _ hs)]
          exact ht rest⟩
    | fault f => rw [hm] at h; cases h
    | refused r => rw [hm] at h; cases h

/-! ### The sequencer at the core's turns -/

/-- The position after the core's turn (44_block_encrypt.md R112, R113). -/
def Seq.advance (q : Seq) : Seq :=
  match q.op, q.ph with
  | .kx, .ark => if 1 ≤ q.rnd.val then if h : q.rnd.val < 10 then { q with rnd := ⟨q.rnd.val + 1, by omega⟩ } else Seq.idle else q
  | .en, .ark => if h : q.rnd.val < 10 then { q with rnd := ⟨q.rnd.val + 1, by omega⟩, ph := .sb } else Seq.idle
  | .en, .sb => { q with ph := .sr }
  | .en, .sr => { q with ph := if q.rnd.val < 10 then .mc else .ark }
  | .en, .mc => { q with ph := .ark }
  | .kx, .sb | .kx, .sr | .kx, .mc => q
  | .idle, .ark | .idle, .sb | .idle, .sr | .idle, .mc => q

/-- How many core steps a position is away from the idle core (44_block_encrypt.md R114, R116): 10 at acceptance of LDKEY, 40
at acceptance of ENC. -/
def Seq.remaining (q : Seq) : Nat :=
  match q.op, q.ph with
  | .idle, _ => 0
  | .kx, _ => 11 - q.rnd.val
  | .en, .ark => if q.rnd.val < 10 then 4 * (10 - q.rnd.val) else 1
  | .en, .sb => 4 * (10 - q.rnd.val) + 3
  | .en, .sr => 4 * (10 - q.rnd.val) + 2
  | .en, .mc => 4 * (10 - q.rnd.val) + 1

theorem remaining_at_acceptance (s : State) (b : Block) :
    (s.acceptLdkey b).seq.remaining = 10 ∧ (s.acceptEnc b).seq.remaining = 40 := ⟨rfl, rfl⟩

/-- At the core's turn SEQ advances, whatever the data registers hold (44_block_encrypt.md R115). -/
theorem takeTurn_core_seq (s : State) : ∃ t, s.takeTurn .core = .next t ∧ t.seq = s.seq.advance := by
  rw [takeTurn_core]
  rcases hq : s.seq with ⟨op, r, ph⟩
  cases op <;> cases ph <;> simp only [Seq.selected, exec]
  case idle.ark => exact ⟨s, rfl, hq⟩
  case idle.sb => exact ⟨s, rfl, hq⟩
  case idle.sr => exact ⟨s, rfl, hq⟩
  case idle.mc => exact ⟨s, rfl, hq⟩
  case kx.sb => exact ⟨s, rfl, hq⟩
  case kx.sr => exact ⟨s, rfl, hq⟩
  case kx.mc => exact ⟨s, rfl, hq⟩
  case kx.ark =>
    rw [execKexp, hq]
    by_cases h1 : 1 ≤ r.val
    · by_cases h : r.val < 10 <;> simp [Seq.advance, h1, h]
    · simp [Seq.advance, h1, hq]
  case en.ark =>
    rw [execArk, hq]
    by_cases h : r.val < 10 <;> simp [Seq.advance, h]
  case en.sb => rw [execSb, hq]; simp [Seq.advance]
  case en.sr => rw [execSr, hq]; simp [Seq.advance]
  case en.mc => rw [execMc, hq]; simp [Seq.advance]

/-- From a legal position the core's turn leads to a legal position, one step nearer to idle. -/
theorem advance_legal (q : Seq) (h : q.legal = true) :
    q.advance.legal = true ∧ q.advance.remaining = q.remaining - 1 := by
  obtain ⟨op, r, ph⟩ := q
  revert h
  cases op <;> cases ph <;> revert r <;> decide

theorem remaining_eq_zero {q : Seq} (h : q.legal = true) (hz : q.remaining = 0) : q.op = .idle := by
  obtain ⟨op, r, ph⟩ := q
  revert h hz
  cases op <;> cases ph <;> revert r <;> decide

/-! ### WAIT -/

/-- One move of a session whose host waits for the idle core: either the host has read `BUSY = 0` and goes on, or it still waits
and the sequencer has advanced exactly if the move was the core's. -/
theorem move_waiting (rest : List HostAction) (s : State) (m : Mover) :
    (m = .host ∧ s.busy = false ∧
      Session.move { script := .wait .idle :: rest, core := s } m = .next { script := rest, core := s.replyWith (.status s.status) }) ∨
    ∃ t, Session.move { script := .wait .idle :: rest, core := s } m = .next { script := .wait .idle :: rest, core := t } ∧
      (m = .host → s.busy = true ∧ t = s.replyWith (.status s.status)) ∧ (m = .core → t.seq = s.seq.advance) := by
  cases m with
  | core =>
    obtain ⟨t, ht, hseq⟩ := takeTurn_core_seq s
    exact .inr ⟨t, by simp [Session.move, ht, Session.resume], by simp, fun _ => hseq⟩
  | host =>
    cases hb : s.busy with
    | false => exact .inl ⟨rfl, rfl, by simp [move_host_wait, hb]⟩
    | true => exact .inr ⟨s.replyWith (.status s.status), by simp [move_host_wait, hb], fun _ => ⟨rfl, rfl⟩, by simp⟩

/-- From move `n` of an interleaving on, a host that waits for the idle core comes to the end of its wait: the word last read
shows `BUSY = 0` and the core is idle. -/
def WaitEnds (schedule : Nat → Mover) (rest : List HostAction) (n : Nat) (s : State) : Prop :=
  ∃ m t, Session.moves ((List.range' n m).map schedule) { script := .wait .idle :: rest, core := s } =
      .next { script := rest, core := t } ∧
    t.busy = false ∧ ∃ v, t.seen.getLast? = some (.status v) ∧ v.getLsbD 1 = false

theorem WaitEnds.of_read {schedule : Nat → Mover} {rest : List HostAction} {n : Nat} {s : State} (hb : s.busy = false)
    (hm : Session.move { script := .wait .idle :: rest, core := s } (schedule n) =
      .next { script := rest, core := s.replyWith (.status s.status) }) : WaitEnds schedule rest n s :=
  ⟨1, _, moves_cons [] hm, hb, s.status, List.getLast?_concat, by rw [(status_bits s).2.1, hb]⟩

theorem WaitEnds.of_move {schedule : Nat → Mover} {rest : List HostAction} {n : Nat} {s t : State}
    (hm : Session.move { script := .wait .idle :: rest, core := s } (schedule n) =
      .next { script := .wait .idle :: rest, core := t }) (h : WaitEnds schedule rest (n + 1) t) :
    WaitEnds schedule rest n s := by
  obtain ⟨m, u, hu, hend⟩ := h
  exact ⟨m + 1, u, by rw [List.range'_succ, List.map_cons, moves_cons _ hm, hu], hend⟩

/-- `k` core steps from idle, the move that brings the end nearer (the core's while it is busy, then the host's read) standing
`d` moves ahead. -/
theorem waitEnds_of_remaining {schedule : Nat → Mover} (hf : fair schedule) (rest : List HostAction) (k : Nat) :
    ∀ (d n : Nat) (s : State), s.seq.legal = true → s.seq.remaining = k →
      schedule (n + d) = (if k = 0 then .host else .core) → WaitEnds schedule rest n s := by
  induction k with
  | zero =>
    intro d
    induction d with
    | zero =>
      intro n s hl hk hw
      have hi := (s.busy_eq_false_iff).2 (remaining_eq_zero hl hk)
      obtain ⟨-, hb, hm⟩ | ⟨t, -, hh, -⟩ := move_waiting rest s (schedule n)
      · exact .of_read hb hm
      · rw [(hh hw).1] at hi
        cases hi
    | succ d ihd =>
      intro n s hl hk hw
      have hi := (s.busy_eq_false_iff).2 (remaining_eq_zero hl hk)
      obtain ⟨-, hb, hm⟩ | ⟨t, ht, hh, hc⟩ := move_waiting rest s (schedule n)
      · exact .of_read hb hm
      · cases hs : schedule n with
        | host =>
          rw [(hh hs).1] at hi
          cases hi
        | core =>
          have ha := advance_legal s.seq hl
          rw [← hc hs, hk] at ha
          exact .of_move ht (ihd (n + 1) t ha.1 ha.2 (by rw [← hw]; congr 1; omega))
  | succ k ihk =>
    intro d
    induction d with
    | zero =>
      intro n s hl hk hw
      have hs : schedule n = .core := hw
      obtain ⟨hm, -⟩ | ⟨t, ht, -, hc⟩ := move_waiting rest s (schedule n)
      · rw [hs] at hm
        cases hm
      · have ha := advance_legal s.seq hl
        rw [← hc hs, hk] at ha
        obtain ⟨j, hj, hs'⟩ := hf (if k = 0 then .host else .core) (n + 1)
        exact .of_move ht (ihk (j - (n + 1)) (n + 1) t ha.1 ha.2 (by rw [Nat.add_sub_cancel' hj, hs']))
    | succ d ihd =>
      intro n s hl hk hw
      obtain ⟨-, hb, hm⟩ | ⟨t, ht, hh, hc⟩ := move_waiting rest s (schedule n)
      · exact .of_read hb hm
      · cases hs : schedule n with
        | host =>
          have hseq : t.seq = s.seq := by rw [(hh hs).2, State.replyWith_seq]
          exact .of_move ht (ihd (n + 1) t (by rw [hseq, hl]) (by rw [hseq, hk]) (by rw [← hw]; congr 1; omega))
        | core =>
          have ha := advance_legal s.seq hl
          rw [← hc hs, hk] at ha
          obtain ⟨j, hj, hs'⟩ := hf (if k = 0 then .host else .core) (n + 1)
          exact .of_move ht (ihk (j - (n + 1)) (n + 1) t ha.1 ha.2 (by rw [Nat.add_sub_cancel' hj, hs']))

/-- R58: `WAIT` "always terminates under the fairness assumption of 00_scope.md rule R9", given also that the host goes on moving
(`fair`, assumption log 23): from every legal position and in every such interleaving it ends, and then the word last read showed
`BUSY = 0` and the core is idle. -/
theorem wait_terminates {schedule : Nat → Mover} (hf : fair schedule) (rest : List HostAction) (s : State)
    (hl : s.seq.legal = true) :
    ∃ m t, Session.moves ((List.range m).map schedule) { script := waitScript ++ rest, core := s } =
        .next { script := rest, core := t } ∧
      t.busy = false ∧ ∃ v, t.seen.getLast? = some (.status v) ∧ v.getLsbD 1 = false := by
  obtain ⟨j, -, hs⟩ := hf (if s.seq.remaining = 0 then .host else .core) 0
  obtain ⟨m, t, h⟩ := waitEnds_of_remaining hf rest s.seq.remaining j 0 s hl rfl (by rw [Nat.zero_add, hs])
  exact ⟨m, t, by rw [List.range_eq_range']; exact h⟩

end Sys2Proof.Machine
end

