-- ==== Sys2Proof/Laws/HostDuties.lean ====
section
/-! SUPPORT. What the duties of 46_host_driver.md R143 say of each turn, and what a host takes note of. -/

namespace Sys2Proof.Machine

@[simp] theorem permits_nop (v : HostView) (din : Block) : v.permits (.issue 0b00 din) = true := rfl
@[simp] theorem permits_ldkey (v : HostView) (din : Block) : v.permits (.issue 0b01 din) = v.idleRead := rfl
@[simp] theorem permits_enc (v : HostView) (din : Block) :
    v.permits (.issue 0b10 din) = (v.keyIssued && v.idleRead && !v.resultDue) := rfl
@[simp] theorem permits_rsvd (v : HostView) (din : Block) : v.permits (.issue 0b11 din) = false := rfl
@[simp] theorem permits_readDout (v : HostView) : v.permits .readDout = v.validRead := rfl

/-- A host that has read nothing may issue no LDKEY and no ENC and may not read `dout` (R143 (a), (b), (c)). -/
theorem permits_fresh (t : Turn) : HostView.fresh.permits t = true →
    (∀ din, t ≠ .issue 0b01 din) ∧ (∀ din, t ≠ .issue 0b10 din) ∧ t ≠ .readDout := by
  intro h
  refine ⟨?_, ?_, ?_⟩
  · rintro din rfl
    cases h
  · rintro din rfl
    cases h
  · rintro rfl
    cases h

@[simp] theorem note_nop (v : HostView) (din : Block) (seen : List Reply) : v.note (.issue 0b00 din) seen = v := rfl
@[simp] theorem note_ldkey (v : HostView) (din : Block) (seen : List Reply) :
    v.note (.issue 0b01 din) seen = { v with keyIssued := true, idleRead := false } := rfl
@[simp] theorem note_enc (v : HostView) (din : Block) (seen : List Reply) :
    v.note (.issue 0b10 din) seen = { v with idleRead := false, validRead := false, resultDue := true } := rfl
@[simp] theorem note_rsvd (v : HostView) (din : Block) (seen : List Reply) : v.note (.issue 0b11 din) seen = v := rfl
@[simp] theorem note_readDout (v : HostView) (seen : List Reply) : v.note .readDout seen = { v with resultDue := false } := rfl
@[simp] theorem note_reset (v : HostView) (seen : List Reply) : v.note .reset seen = .fresh := rfl
@[simp] theorem note_core (v : HostView) (seen : List Reply) : v.note .core seen = v := rfl
@[simp] theorem note_unit (v : HostView) (call : UnitCall) (seen : List Reply) : v.note (.unit call) seen = v := rfl

/-- Reading STATUS, a host learns BUSY and OVLD of the core as it stands. -/
@[simp] theorem note_readStatus (v : HostView) (s : State) :
    v.note .readStatus (s.replyWith (.status s.status)).seen = { v with idleRead := !s.busy, validRead := s.ovld } := by
  simp [HostView.note, HostView.noteStatus]

/-- The first step of a dutiful run: the turn is permitted and the rest is a dutiful run. -/
theorem dutifulFor_succ {n : Nat} {v : HostView} {s : State} (h : dutifulFor (n + 1) v s = true) :
    v.permits s.turn = true ∧ ∃ t, step s = .next t ∧ dutifulFor n (v.note s.turn t.seen) t = true := by
  rw [dutifulFor, Bool.and_eq_true] at h
  obtain ⟨hp, hs⟩ := h
  cases ht : step s with
  | next t =>
    rw [ht] at hs
    exact ⟨hp, t, rfl, hs⟩
  | fault f => rw [ht] at hs; cases hs
  | refused r => rw [ht] at hs; cases hs

end Sys2Proof.Machine
end

