-- ==== Sys2Proof/Laws/PerInstr.lean ====
section
/-! SUPPORT. Statements made per operation. `EncodedLength`: a command has 17 bytes, a micro-operation one, a port event or
function unit has no encoding (30_encoding.md R53, R56, R59). -/

namespace Sys2Proof.Laws.EncodedLength

/-- The number of bytes of the encoding is the one its format gives. -/
def Statement (i : Instr) : Prop :=
  (encode i).map List.length =
    match i.format with
    | .cmd => some 17
    | .uop => some 1
    | .port => none
    | .func => none

theorem nop (din : Block) : Statement (.nop din) := by simp [Statement, encode, commandBytes, Instr.format]
theorem ldkey (din : Block) : Statement (.ldkey din) := by simp [Statement, encode, commandBytes, Instr.format]
theorem enc (din : Block) : Statement (.enc din) := by simp [Statement, encode, commandBytes, Instr.format]
theorem rsvd (din : Block) : Statement (.rsvd din) := by simp [Statement, encode, commandBytes, Instr.format]
theorem rdstat : Statement .rdstat := rfl
theorem rdout : Statement .rdout := rfl
theorem reset : Statement .reset := rfl
theorem kexp (m : Round) : Statement (.kexp m) := rfl
theorem ark (r : Round) : Statement (.ark r) := rfl
theorem sb (r : Round) : Statement (.sb r) := rfl
theorem sr (r : Round) : Statement (.sr r) := rfl
theorem mc (r : Round) : Statement (.mc r) := rfl
theorem gfmul (a b : Byte) : Statement (.gfmul a b) := rfl
theorem xtime (a : Byte) : Statement (.xtime a) := rfl
theorem sbox (b : Byte) : Statement (.sbox b) := rfl
theorem kscore (w : Word4) (round : Round) : Statement (.kscore w round) := rfl
theorem expand (key : Block) : Statement (.expand key) := rfl
theorem encblk (p : Block) (rk : Sched) : Statement (.encblk p rk) := rfl

end Sys2Proof.Laws.EncodedLength
end

