-- ==== Sys2Proof/Tests/Slice0.lean ====
section
/-! SUPPORT. Tests with expected values from spec/ (the vector's name in 95_test_vectors.md is given), and for every statement with
hypotheses a named witness that meets them (test names begin test_, witness names witness_). -/

namespace Sys2Proof.Tests

open Sys2Proof Sys2Proof.Machine

/-! ### States to test on -/

/-- A block as the spec prints it, byte 0 first (20_memory.md R35, R36). -/
def hex (v : BitVec 128) : Block := Block.ofBits v

/-- All-zero block. -/
def zero : Block := Vector.replicate 16 0

/-- The key of V1. -/
def keyV1 : Block := hex 0x000102030405060708090a0b0c0d0e0f#128

/-- The plaintext of V1. -/
def plainV1 : Block := hex 0x00112233445566778899aabbccddeeff#128

/-- Idle, no key, no output, no error. -/
def fresh : State where
  rk := Vector.replicate 11 zero
  st := zero
  dout := zero
  seq := Seq.idle
  krdy := false
  ovld := false
  ecode := 0
  agenda := []
  seen := []
  unitOut := none
  draws := 0

/-- Idle with a ready schedule. -/
def ready : State := { fresh with rk := expand zero, krdy := true }

/-- At `(KX, m, ARK)`. -/
def atKx (m : Round) : State := { fresh with seq := { op := .kx, rnd := m, ph := .ark } }

/-- At `(EN, r, ph)` under a ready schedule. -/
def atEn (r : Round) (ph : Phase) : State := { ready with seq := { op := .en, rnd := r, ph := ph } }

/-! ### Well-formedness: each check refuses an ill-formed term -/

theorem test_wf_kexp_zero : (Instr.kexp 0).wellFormed = false := by decide
theorem test_wf_sb_zero : (Instr.sb 0).wellFormed = false := by decide
theorem test_wf_sr_zero : (Instr.sr 0).wellFormed = false := by decide
theorem test_wf_mc_zero : (Instr.mc 0).wellFormed = false := by decide
theorem test_wf_mc_ten : (Instr.mc 10).wellFormed = false := by decide
theorem test_wf_kscore_zero : (Instr.kscore #v[0, 0, 0, 0] 0).wellFormed = false := by decide
theorem test_wf_accepts : (Instr.kexp 1).wellFormed = true ∧ (Instr.mc 9).wellFormed = true ∧
    (Instr.ark 0).wellFormed = true ∧ (Instr.sb 10).wellFormed = true := by decide

/-! ### Decoding: words written out from 30_encoding.md R51, R59 -/

/-- `CW = cmd:din` of `00:0001..0f`, `01:..`, `10:..`, `11:..`, byte by byte. -/
def word (c : Byte) : List Byte :=
  [c, 0x00, 0x01, 0x02, 0x03, 0x04, 0x05, 0x06, 0x07, 0x08, 0x09, 0x0a, 0x0b, 0x0c, 0x0d, 0x0e, 0x0f]

theorem test_decode_nop : decode (word 0b00000000) = .ok (.nop keyV1, []) := by rfl
theorem test_decode_ldkey : decode (word 0b00000001) = .ok (.ldkey keyV1, []) := by rfl
theorem test_decode_enc : decode (word 0b00000010) = .ok (.enc keyV1, []) := by rfl
theorem test_decode_rsvd : decode (word 0b00000011) = .ok (.rsvd keyV1, []) := by rfl
theorem test_decode_kexp : decode [0b01_1010_00] = .ok (.kexp 10, []) := by rfl
theorem test_decode_ark : decode [0b10_0000_00] = .ok (.ark 0, []) := by rfl
theorem test_decode_sb : decode [0b10_0001_01] = .ok (.sb 1, []) := by rfl
theorem test_decode_sr : decode [0b10_1010_10] = .ok (.sr 10, []) := by rfl
theorem test_decode_mc : decode [0b10_1001_11] = .ok (.mc 9, []) := by rfl
theorem test_decode_refusals :
    decode [] = .error .emptyStream ∧ decode [0x01, 0x00] = .error .operandTooShort ∧
      decode (word 0b00000101) = .error .noSuchCommand ∧ decode [0b01_0001_01] = .error .noSuchMicroOp ∧
      decode [0b10_1011_00] = .error .roundOutOfRange ∧ decode [0b11_0000_00] = .error .noSuchOp :=
  ⟨rfl, rfl, rfl, rfl, rfl, rfl⟩
theorem test_no_encoding : encode .rdstat = none ∧ encode .rdout = none ∧ encode .reset = none ∧
    encode (.gfmul 0 0) = none ∧ encode (.expand zero) = none := ⟨rfl, rfl, rfl, rfl, rfl⟩

/-- The table's words, numbered as it numbers them: `match` of each CMD and UOP row. -/
theorem test_table_words :
    decodeTableWord 8 0b00 = some (.nop zero) ∧ decodeTableWord 8 0b01 = some (.ldkey zero) ∧
    decodeTableWord 8 0b10 = some (.enc zero) ∧ decodeTableWord 8 0b11 = some (.rsvd zero) ∧
    decodeTableWord 8 0b01000100 = some (.kexp 1) ∧ decodeTableWord 8 0b10000000 = some (.ark 0) ∧
    decodeTableWord 8 0b10000101 = some (.sb 1) ∧ decodeTableWord 8 0b10000110 = some (.sr 1) ∧
    decodeTableWord 8 0b10000111 = some (.mc 1) := by decide

/-- A table word placed in the reset state is performed by the very next step: LDKEY goes to (KX, 1, ARK). -/
theorem test_placed_ldkey_runs :
    (match step (State.reset.withFetchWord 8 0b01) with
      | .next t => decide (t.seq = { op := .kx, rnd := 1, ph := .ark })
      | .fault _ => false
      | .refused _ => false) = true := by decide

/-- The same for a micro-operation: SB at round 1 goes on to SR. -/
theorem test_placed_sb_runs :
    (match step (State.reset.withFetchWord 8 0b10000101) with
      | .next t => decide (t.seq = { op := .en, rnd := 1, ph := .sr })
      | .fault _ => false
      | .refused _ => false) = true := by decide

/-! ### The datapath against 95_test_vectors.md -/

/-- M10, M15, M12 -/
theorem test_gfmul : gfmul 0x57 0x83 = 0xc1 ∧ gfmul 0xff 0xff = 0x13 ∧ gfmul 0x80 0x02 = 0x1b := by decide

/-- corner values of R73 -/
theorem test_xtime : xtime 0x7f = 0xfe ∧ xtime 0x80 = 0x1b ∧ xtime 0xff = 0xe5 := by decide

/-- S5, S6, S8, S11 -/
theorem test_sbox : sbox 0x53 = 0xed ∧ sbox 0x35 = 0x96 ∧ sbox 0x80 = 0xcd ∧ sbox 0xff = 0x16 := by decide

/-- KC1, KC6 -/
theorem test_kscore : kscore #v[0x0c, 0x0d, 0x0e, 0x0f] 1 = #v[0xd6, 0xab, 0x76, 0xfe] ∧
    kscore #v[0x01, 0x02, 0x03, 0x04] 9 = #v[0x6c, 0x7b, 0xf2, 0x7c] := by decide

/-- KX1, KX5 -/
theorem test_kexp : kexp keyV1 1 = hex 0xd6aa74fdd2af72fadaa678f1d6ab76fe#128 ∧
    kexp (hex 0x549932d1f08557681093ed9cbe2c974e#128) 10 = hex 0x13111d7fe3944a17f307a78b4d2b30c5#128 := by
  decide +kernel

/-- K1, rows 0, 5 and 10 -/
theorem test_expand : (expand keyV1)[0] = keyV1 ∧
    (expand keyV1)[5] = hex 0x3caaa3e8a99f9deb50f3af57adf622aa#128 ∧
    (expand keyV1)[10] = hex 0x13111d7fe3944a17f307a78b4d2b30c5#128 := by decide +kernel

/-- A1 -/
theorem test_ark : ark plainV1 keyV1 = hex 0x00102030405060708090a0b0c0d0e0f0#128 := by decide +kernel

/-- B4 -/
theorem test_sb : sb (hex 0x00102030405060708090a0b0c0d0e0f0#128) = hex 0x63cab7040953d051cd60e0e7ba70e18c#128 := by
  decide +kernel

/-- H7 -/
theorem test_sr : sr (hex 0x00010203101112132021222330313233#128) = hex 0x00112233102132032031021330011223#128 := by
  decide +kernel

/-- C16, C17 -/
theorem test_mc : mc (hex 0x6353e08c0960e104cd70b751bacad0e7#128) = hex 0x5f72641557f5bc92f7be3b291db9f91a#128 ∧
    mc (hex 0xf20a225c01010101c6c6c6c6d4bf5d30#128) = hex 0x9fdc589d01010101c6c6c6c6046681e5#128 := by decide +kernel

/-- V1, the source's own vector -/
theorem test_encblk : encBlk plainV1 (expand keyV1) = hex 0x69c4e0d86a7b0430d8cdb78070b4c55a#128 := by decide +kernel

/-- R55: upper and lower case, a wrong length refused -/
theorem test_parseKey : parseKey "000102030405060708090A0b0C0d0E0f".toList = some keyV1 ∧
    parseKey "00".toList = none ∧ parseKey "0001020304050607080g0A0b0C0d0E0f".toList = none := by decide +kernel

/-- W6: 33 bytes make three blocks; W1: none make none -/
theorem test_streamBlocks : (streamBlocks (List.replicate 33 0x41)).length = 3 ∧ streamBlocks [] = [] ∧
    (streamBlocks [0x41, 0x42, 0x43, 0x44, 0x45]) = [hex 0x41424344450000000000000000000000#128] := by decide +kernel

/-! ### Single steps against 95_test_vectors.md, tables 2.6 to 2.8 -/

/-- The STATUS of an outcome's state. -/
def statusOf : Host.Outcome State Fault Refusal → Option (BitVec 6)
  | .next t => some t.status
  | .fault _ => none
  | .refused _ => none

/-- Q2 -/
theorem test_ldkey_status : statusOf (exec (.ldkey keyV1) fresh) = some 0b000010 := by decide

/-- F4: the key in flight keeps its round key 0 -/
theorem test_ldkey_busy : exec (.ldkey keyV1) (atKx 1) = .next { atKx 1 with ecode := 0b10 } := by rfl

/-- Q6 -/
theorem test_enc_status : statusOf (exec (.enc plainV1) ready) = some 0b000011 := by decide

/-- F1 and F3: no key, and the priority of busy over no key -/
theorem test_enc_rejected : statusOf (exec (.enc plainV1) fresh) = some 0b111000 ∧
    statusOf (exec (.enc plainV1) (atKx 1)) = some 0b101010 := by decide

/-- F2, F7 -/
theorem test_rsvd_status : statusOf (exec (.rsvd zero) fresh) = some 0b011000 ∧
    statusOf (exec (.rsvd zero) (atEn 0 .ark)) = some 0b011011 := by decide

/-- F8: the second error does not overwrite the first -/
theorem test_rsvd_second : statusOf (exec (.rsvd zero) { fresh with ecode := 0b11 }) = some 0b111000 := by decide

/-- Q8 -/
theorem test_nop : exec (.nop zero) (atEn 5 .sb) = .next (atEn 5 .sb) := by rfl

/-- STATUS with every bit told apart: ECODE 10, ERR, OVLD, no BUSY, KRDY -/
theorem test_rdstat : exec .rdstat { ready with ovld := true, ecode := 0b10 } =
    .next { ready with ovld := true, ecode := 0b10, seen := [.status 0b101101] } := by rfl

/-- Q10: OVLD stays -/
theorem test_rdout : exec .rdout { ready with ovld := true, dout := keyV1 } =
    .next { ready with ovld := true, dout := keyV1, seen := [.dout keyV1] } := by rfl

/-- Z2: an encryption is abandoned -/
theorem test_reset_status : statusOf (exec .reset { atEn 5 .sb with ecode := 0b11 }) = some 0b000000 := by decide

/-- Q3: from (KX, 3, ARK) to (KX, 4, ARK) -/
theorem test_kexp_advances : exec (.kexp 3) (atKx 3) =
    .next { atKx 3 with rk := (atKx 3).rk.set 3 (kexp zero 3), seq := { op := .kx, rnd := 4, ph := .ark } } := by rfl

/-- Q4: completion -/
theorem test_kexp_completes : statusOf (exec (.kexp 10) (atKx 10)) = some 0b000001 := by decide

/-- Q9: completion writes DOUT with the State after the last ARK -/
theorem test_ark_completes : statusOf (exec (.ark 10) (atEn 10 .ark)) = some 0b000101 := by decide

/-- R113, case SR: MC follows below round 10, ARK at it -/
theorem test_sr_next_phase :
    exec (.sr 9) (atEn 9 .sr) = .next { atEn 9 .mc with st := sr zero } ∧
    exec (.sr 10) (atEn 10 .sr) = .next { atEn 10 .ark with st := sr zero } := ⟨rfl, rfl⟩

/-- Q16 -/
theorem test_idle_core : step fresh = .next fresh := by rfl

/-- R58: a WAIT goes on reading while BUSY = 1, and ends at the read that shows BUSY = 0. -/
theorem test_wait_repeats_while_busy :
    Session.move { script := waitScript, core := atEn 3 .sb } .host =
      .next { script := waitScript, core := { atEn 3 .sb with seen := [.status 0b000011] } } ∧
    Session.move { script := waitScript, core := ready } .host =
      .next { script := [], core := { ready with seen := [.status 0b000001] } } := ⟨rfl, rfl⟩

/-- R136: the wait for OVLD = 1 goes on while an idle core shows OVLD = 0, and the wait for KRDY = 1 ends on a busy core with
KRDY = 1. -/
theorem test_wait_for_flags :
    Session.move { script := [.wait .outputValid], core := ready } .host =
      .next { script := [.wait .outputValid], core := { ready with seen := [.status 0b000001] } } ∧
    Session.move { script := [.wait .keyReady], core := atEn 3 .sb } .host =
      .next { script := [], core := { atEn 3 .sb with seen := [.status 0b000011] } } := ⟨rfl, rfl⟩

/-- P1 (its host "kept every duty"): LDKEY after the read 000000, ENC refused to the host after 000010 and allowed after 000001,
dout after 000101. -/
theorem test_duties_of_P1 :
    let afterReset := HostView.fresh.note .readStatus [.status 0b000000]
    let loading := (afterReset.note (.issue 0b01 keyV1) []).note .readStatus [.status 0b000010]
    let loaded := loading.note .readStatus [.status 0b000001]
    let running := (loaded.note (.issue 0b10 plainV1) []).note .readStatus [.status 0b000011]
    let done := running.note .readStatus [.status 0b000101]
    HostView.fresh.permits (.issue 0b01 keyV1) = false ∧ afterReset.permits (.issue 0b01 keyV1) = true ∧
    afterReset.permits (.issue 0b10 plainV1) = false ∧ loading.permits (.issue 0b10 plainV1) = false ∧
    loaded.permits (.issue 0b10 plainV1) = true ∧ running.permits .readDout = false ∧ done.permits .readDout = true :=
  ⟨rfl, rfl, rfl, rfl, rfl, rfl, rfl⟩

/-- R143 (c), (d): the next ENC waits for the read of dout, and code 11 is never allowed. -/
theorem test_duties_before_next_enc :
    let done := HostView.mk true true true true
    done.permits (.issue 0b10 plainV1) = false ∧ (done.note .readDout []).permits (.issue 0b10 plainV1) = true ∧
    done.permits (.issue 0b11 zero) = false ∧ HostView.fresh.permits (.issue 0b00 zero) = true := ⟨rfl, rfl, rfl, rfl⟩

/-! ### Witnesses of the statements' hypotheses -/

theorem witness_ldkey_idle : fresh.seq.op = .idle := by decide
theorem witness_ldkey_busy : (atKx 1).seq.op ≠ .idle := by decide
theorem witness_enc_accepted : ready.seq.op = .idle ∧ ready.krdy = true := by decide
theorem witness_enc_busy : (atEn 0 .ark).seq.op ≠ .idle := by decide
theorem witness_enc_nokey : fresh.seq.op = .idle ∧ fresh.krdy = false := by decide
theorem witness_rdout_valid : ({ ready with ovld := true } : State).ovld = true := by decide
theorem witness_rdout_draw : ready.ovld = false := by decide
theorem witness_kexp_first : 1 ≤ (1 : Round).val ∧ (atKx 1).seq = { op := .kx, rnd := 1, ph := .ark } ∧
    (1 : Round).val < 10 := by decide
theorem witness_kexp_last : 1 ≤ (10 : Round).val ∧ (atKx 10).seq = { op := .kx, rnd := 10, ph := .ark } ∧
    (10 : Round).val = 10 := by decide
theorem witness_ark_first : (atEn 0 .ark).seq = { op := .en, rnd := 0, ph := .ark } ∧ (0 : Round).val < 10 := by decide
theorem witness_ark_ninth : (atEn 9 .ark).seq = { op := .en, rnd := 9, ph := .ark } ∧ (9 : Round).val < 10 := by decide
theorem witness_ark_last : (atEn 10 .ark).seq = { op := .en, rnd := 10, ph := .ark } ∧ (10 : Round).val = 10 := by decide
theorem witness_sb : (atEn 1 .sb).seq = { op := .en, rnd := 1, ph := .sb } := by decide
theorem witness_sr : (atEn 10 .sr).seq = { op := .en, rnd := 10, ph := .sr } := by decide
theorem witness_mc : (atEn 9 .mc).seq = { op := .en, rnd := 9, ph := .mc } := by decide
theorem witness_unselected : fresh.seq ≠ { op := .kx, rnd := 1, ph := .ark } ∧
    fresh.seq ≠ { op := .en, rnd := 1, ph := .ark } ∧ fresh.seq ≠ { op := .en, rnd := 1, ph := .sb } ∧
    fresh.seq ≠ { op := .en, rnd := 1, ph := .sr } ∧ fresh.seq ≠ { op := .en, rnd := 1, ph := .mc } := by decide
theorem witness_unselected_kexp_zero : (0 : Round).val = 0 := by decide
theorem witness_frame : exec (.kexp 10) (atKx 10) =
    .next (((atKx 10).setRk 10 (kexp zero 10)).completeLdkey) := by rfl
theorem witness_round_constants : 9 + 1 < 11 ∧ 1 ≤ 9 ∧ 1 + 1 < 11 ∧ 1 ≤ 1 := by decide
theorem witness_sbox : sbox 0x52 = sbox 0x52 := by rfl
theorem witness_kexp_bytes : 4 ≤ 4 ∧ 4 < 16 ∧ 4 ≤ 15 ∧ 15 < 16 := by decide
theorem witness_expand : 0 + 1 < 11 ∧ 9 + 1 < 11 := by decide
theorem witness_word_schedule (key : Block) : ∃ W : Nat → Nat → Byte, ∀ (n b : Nat) (hn : n < 44) (hb : b < 4),
    W n b = ((expand key)[n / 4])[4 * (n % 4) + b]'(by omega) :=
  ⟨fun n b => if h : n < 44 ∧ b < 4 then ((expand key)[n / 4])[4 * (n % 4) + b]'(by omega) else 0,
    fun n b hn hb => by simp [hn, hb]⟩
theorem witness_equal_columns : ∀ r c : Fin 4, zero[r.val + 4 * c.val] = zero[r.val] := by decide
theorem witness_mix_column : plainV1[4 * (3 : Fin 4).val] = 0xcc ∧ plainV1[4 * (3 : Fin 4).val + 1] = 0xdd ∧
    plainV1[4 * (3 : Fin 4).val + 2] = 0xee ∧ plainV1[4 * (3 : Fin 4).val + 3] = 0xff := by decide
theorem witness_mix_equal_column : zero[4 * (3 : Fin 4).val] = 0 ∧ zero[4 * (3 : Fin 4).val + 1] = 0 ∧
    zero[4 * (3 : Fin 4).val + 2] = 0 ∧ zero[4 * (3 : Fin 4).val + 3] = 0 := by decide
theorem witness_lanes : ∀ j : Fin 4, plainV1[4 * (0 : Fin 4).val + j.val] =
    (plainV1.set 15 0)[4 * (0 : Fin 4).val + j.val] := by decide
theorem witness_encode_command : encode (.enc keyV1) = some (word 0b00000010) := by rfl
theorem witness_encode_micro : encode (.mc 9) = some [0b10_1001_11] := by rfl
theorem witness_decode : decode ([0b01_1010_00] ++ [0x55]) = .ok (.kexp 10, [0x55]) := by rfl
theorem witness_step_command : ({ fresh with agenda := [.issue 0b01 keyV1] } : State).nextWord = some (word 0b00000001) ∧
    decode (word 0b00000001) = .ok (.ldkey keyV1, []) ∧ (Instr.ldkey keyV1).wellFormed = true := ⟨rfl, rfl, rfl⟩
theorem witness_step_micro : (atKx 10).agenda.headD .core = .core ∧ (atKx 10).seq.op ≠ .idle ∧
    (atKx 10).nextWord = some [0b01_1010_00] ∧ decode [0b01_1010_00] = .ok (.kexp 10, []) ∧
    (Instr.kexp 10).wellFormed = true := ⟨rfl, by decide, rfl, rfl, rfl⟩
theorem witness_positions : (atKx 1).agenda.headD .core = .core ∧ (atKx 1).nextOp = some (.kexp 1) ∧
    (atKx 0).agenda.headD .core = .core ∧ (atKx 0).nextOp = some (.kexp 0) ∧
    (atEn 0 .ark).agenda.headD .core = .core ∧ (atEn 0 .ark).nextOp = some (.ark 0) ∧
    (atEn 1 .sb).agenda.headD .core = .core ∧ (atEn 1 .sb).nextOp = some (.sb 1) ∧
    (atEn 10 .sr).agenda.headD .core = .core ∧ (atEn 10 .sr).nextOp = some (.sr 10) ∧
    (atEn 9 .mc).agenda.headD .core = .core ∧ (atEn 9 .mc).nextOp = some (.mc 9) :=
  ⟨rfl, rfl, rfl, rfl, rfl, rfl, rfl, rfl, rfl, rfl, rfl, rfl⟩
theorem witness_port_events : ({ fresh with agenda := [.readStatus] } : State).agenda = .readStatus :: [] ∧
    ({ fresh with agenda := [.readDout] } : State).agenda = .readDout :: [] ∧
    ({ fresh with agenda := [.reset] } : State).agenda = .reset :: [] ∧
    ({ fresh with agenda := [.unit (.xtime 3)] } : State).agenda = .unit (.xtime 3) :: [] := by decide
theorem witness_idle_core : fresh.agenda.headD .core = .core ∧ fresh.seq.op = .idle := by decide

/-- A ready schedule is the expansion of its round key 0. -/
theorem ready_schedule : (expand zero) = expand (expand zero)[0] := by rw [expand_getElem]; rfl

theorem witness_inv_idle : fresh.Inv ∧ step fresh = .next fresh :=
  ⟨State.Inv.of_idle rfl (fun h => by cases h), rfl⟩
theorem witness_inv_encrypting : (atEn 5 .sb).Inv ∧
    step (atEn 5 .sb) = .next { atEn 5 .sr with st := sb zero } :=
  ⟨State.Inv.of_encrypting rfl rfl rfl ready_schedule, rfl⟩
theorem witness_history : ({ History.none with key := some zero, current := some (zero, expand zero) } : History).Explains
    (atEn 0 .ark) ∧ (atEn 0 .ark).Inv ∧
    step (atEn 0 .ark) = .next { atEn 1 .sb with st := ark zero (expand zero)[0] } :=
  ⟨{ key := fun _ => by
       have h : (atEn 0 .ark).rk[0] = zero := by
         show (expand zero)[0] = zero
         rw [expand_getElem]
         rfl
       rw [h]
     inFlight := fun _ => ⟨zero, 0, by decide, rfl, rfl, rfl⟩
     output := fun h => by cases h },
   State.Inv.of_encrypting rfl rfl rfl ready_schedule, rfl⟩

/-- Between the tenth step and the issue the host may do anything but reset: here it is rejected, reads, and waits. -/
def nineCoreTurns : List Turn :=
  [.core, .issue 0b10 zero, .core, .readStatus, .core, .issue 0b11 zero] ++ List.replicate 6 .core

theorem witness_ldkey_run : fresh.seq.op = .idle ∧ .reset ∉ nineCoreTurns ∧ nineCoreTurns.count .core = 9 ∧
    ({ fresh with agenda := .issue 0b01 keyV1 :: (nineCoreTurns ++ .core :: [.readDout]) } : State).agenda =
      .issue 0b01 keyV1 :: (nineCoreTurns ++ .core :: [.readDout]) := by decide +kernel

/-- Thirty-nine turns of the core with a command and two reads among them. -/
def thirtyNineCoreTurns : List Turn :=
  List.replicate 20 .core ++ [.issue 0b01 zero, .readDout] ++ List.replicate 19 .core

theorem witness_enc_run : ready.seq.op = .idle ∧ ready.krdy = true ∧ .reset ∉ thirtyNineCoreTurns ∧
    thirtyNineCoreTurns.count .core = 39 ∧
    ({ ready with agenda := .issue 0b10 plainV1 :: (thirtyNineCoreTurns ++ .core :: []) } : State).agenda =
      .issue 0b10 plainV1 :: (thirtyNineCoreTurns ++ .core :: []) := by decide +kernel

theorem witness_busy_host : ∃ t, ({ atKx 1 with agenda := [.issue 0b01 zero] } : State).agenda = .issue 0b01 zero :: [] ∧
    Turn.issue 0b01 zero ≠ .core ∧ Turn.issue 0b01 zero ≠ .reset ∧ (atKx 1).seq.op ≠ .idle ∧
    step { atKx 1 with agenda := [.issue 0b01 zero] } = .next t :=
  ⟨{ atKx 1 with ecode := 0b10 }, rfl, by decide, by decide, by decide, rfl⟩
theorem witness_sticky : ∃ t, ({ fresh with ecode := 0b01, agenda := [.issue 0b10 zero] } : State).ecode ≠ 0b00 ∧
    ({ fresh with ecode := 0b01, agenda := [.issue 0b10 zero] } : State).agenda.headD .core ≠ .reset ∧
    step { fresh with ecode := 0b01, agenda := [.issue 0b10 zero] } = .next t :=
  ⟨{ fresh with ecode := 0b01 }, by decide, by decide, rfl⟩
theorem witness_dutiful : ∃ t, ({ ready with agenda := [.issue 0b10 zero] } : State).dutiful = true ∧
    ready.ecode = 0b00 ∧ step { ready with agenda := [.issue 0b10 zero] } = .next t :=
  ⟨ready.acceptEnc zero, by rfl, by decide, rfl⟩
theorem witness_dutiful_run : fresh.ecode = 0b00 ∧
    dutifulFor 2 .fresh { fresh with agenda := [.readStatus, .issue 0b01 keyV1] } = true := ⟨rfl, rfl⟩
theorem witness_dutiful_read : ∃ t, dutifulFor 2 .fresh { ready with ovld := true, agenda := [.readStatus, .readDout] } = true ∧
    run 1 { ready with ovld := true, agenda := [.readStatus, .readDout] } = .next t ∧
    t.agenda.headD .core = .readDout :=
  ⟨{ ready with ovld := true, agenda := [.readDout], seen := [.status 0b000101] }, rfl, rfl, rfl⟩
theorem witness_control : ∃ t t', (atEn 3 .mc).seq = { atEn 3 .mc with st := keyV1 }.seq ∧
    step (atEn 3 .mc) = .next t ∧ step { atEn 3 .mc with st := keyV1 } = .next t' :=
  ⟨{ atEn 3 .ark with st := mc zero }, { atEn 3 .ark with st := mc keyV1 }, rfl, rfl, rfl⟩
theorem witness_hidden : ∃ t t', (atEn 3 .mc).busy = (atEn 4 .sb).busy ∧
    (({ atEn 3 .mc with agenda := [.readDout], ovld := true } : State).agenda.headD .core = .readDout →
      ({ atEn 3 .mc with agenda := [.readDout], ovld := true } : State).ovld = true) ∧
    step { atEn 3 .mc with agenda := [.readDout], ovld := true } = .next t ∧
    step { atEn 4 .sb with agenda := [.readDout], ovld := true, st := keyV1 } = .next t' :=
  ⟨{ atEn 3 .mc with ovld := true, seen := [.dout zero] },
   { atEn 4 .sb with ovld := true, st := keyV1, seen := [.dout zero] }, by decide, fun _ => rfl, rfl, rfl⟩
theorem witness_finishes : (atEn 0 .ark).Inv ∧ (atEn 0 .ark).agenda = [] :=
  ⟨State.Inv.of_encrypting rfl rfl rfl ready_schedule, rfl⟩
theorem witness_padding : 1 < (([0, 1, 2, 3, 4, 5, 6, 7, 8, 9, 10, 11, 12, 13, 14, 15, 16] : List Byte).length + 15) / 16 := by
  decide
theorem witness_leading_blocks : 16 * 1 ≤ (List.replicate 17 (0x41 : Byte)).length ∧
    16 * 1 ≤ (List.replicate 16 (0x41 : Byte)).length ∧
    (List.replicate 17 (0x41 : Byte)).take (16 * 1) = (List.replicate 16 (0x41 : Byte)).take (16 * 1) := by decide
theorem witness_stream : fresh.seq.op = .idle ∧
    ({ fresh with agenda := streamTurns keyV1 [0x41] ++ [.readStatus] } : State).agenda =
      streamTurns keyV1 [0x41] ++ [.readStatus] := ⟨rfl, rfl⟩

/-- Host and core in turn is a fair interleaving. -/
theorem witness_fair : fair (fun n => if n % 2 = 0 then .core else .host) := by
  intro m n
  cases m with
  | core => exact ⟨2 * n, by omega, by simp⟩
  | host => exact ⟨2 * n + 1, by omega, if_neg (by omega)⟩

end Sys2Proof.Tests
end

section
/-! SUPPORT. The statements of 00_scope.md: which word selects the operation of a step, and how a core left alone comes to
the end of its command. -/

namespace Sys2Proof.Machine

/-! ### The selecting word -/

/-- The word of an issued command is the command word (30_encoding.md R50). -/
theorem nextWord_issue {s : State} {cmd : BitVec 2} {din : Block} (h : s.turn = .issue cmd din) :
    s.nextWord = some (commandBytes cmd din) := by
  simp [State.nextWord, h]

/-- The word at a busy core's turn is the reference word of its position (30_encoding.md R59). -/
theorem nextWord_core_busy {s : State} (h : s.turn = .core) (hb : s.busy = true) : s.nextWord = some [s.seq.word] := by
  simp [State.nextWord, h, hb]

/-- The selected operation is the one the decoder reads from the selecting word. -/
theorem nextOp_of_nextWord {s : State} {bytes rest : List Byte} {i : Instr} (hw : s.nextWord = some bytes)
    (hd : decode bytes = .ok (i, rest)) : s.nextOp = some i := by
  simp [State.nextOp, hw, hd]

/-! ### A core left alone -/

/-- While the host is silent every step is the core's turn: SEQ advances and the host stays silent (00_scope.md R9;
assumption log 6). -/
theorem step_silent {s : State} (h : s.agenda = []) :
    ∃ t, step s = .next t ∧ t.seq = s.seq.advance ∧ t.agenda = [] := by
  obtain ⟨t, ht, hseq⟩ := takeTurn_core_seq s
  have hs : s = s.withAgenda [] := by rw [State.withAgenda, ← h]
  have hcore : step s = step (s.withAgenda [.core]) := by
    rw [hs]
    rfl
  exact ⟨t.withAgenda [], hcore.trans (step_of_takeTurn [] ht), hseq, rfl⟩

/-- No legal position is more than forty core steps from the idle core (44_block_encrypt.md R114). -/
theorem remaining_le_forty {q : Seq} (h : q.legal = true) : q.remaining ≤ 40 := by
  obtain ⟨op, r, ph⟩ := q
  revert h
  cases op <;> cases ph <;> revert r <;> decide

/-- The only legal position of an idle sequencer (10_state.md R15). -/
theorem eq_idle_of_legal {q : Seq} (h : q.legal = true) (hop : q.op = .idle) : q = Seq.idle := by
  obtain ⟨op, r, ph⟩ := q
  cases hop
  revert h
  cases ph <;> revert r <;> decide

/-- While the host is silent, a legal position that is `n` core steps from the idle core is idle after `n` steps. -/
theorem run_silent_idle {n : Nat} {s : State} (hl : s.seq.legal = true) (ha : s.agenda = []) (hn : s.seq.remaining = n) :
    ∃ t, run n s = .next t ∧ t.seq = Seq.idle := by
  induction n generalizing s with
  | zero => exact ⟨s, rfl, eq_idle_of_legal hl (remaining_eq_zero hl hn)⟩
  | succ n ih =>
    obtain ⟨u, hu, hseq, hagenda⟩ := step_silent ha
    obtain ⟨hlegal, hrem⟩ := advance_legal s.seq hl
    rw [← hseq] at hlegal hrem
    obtain ⟨t, ht, hidle⟩ := ih hlegal hagenda (by rw [hrem, hn, Nat.add_sub_cancel])
    exact ⟨t, by rw [run_succ_of_step n hu, ht], hidle⟩

end Sys2Proof.Machine

open Sys2Proof Sys2Proof.Machine

/-- Settles O56: each of the core's turns brings a legal position one step nearer to idle, and none is more than forty away. -/
theorem busyCoreFinishesWithinFortySteps : Obligations.BusyCoreFinishesWithinFortySteps := by
  intro s hinv hagenda
  obtain ⟨t, hrun, hidle⟩ := run_silent_idle hinv.legal hagenda rfl
  exact ⟨s.seq.remaining, t, remaining_le_forty hinv.legal, hrun, hidle⟩

/-- Settles O41: the turn gives the selecting word, and the step executes what the decoder reads from it. -/
theorem stepRunsTheDecodedOperation : Obligations.StepRunsTheDecodedOperation := by
  intro s
  refine ⟨fun cmd din tail ha => ?issue, fun hcore hop => ?core, fun bytes i rest hw hd _ => ?decoded⟩
  case issue => exact nextWord_issue (by rw [State.turn, ha, List.headD_cons])
  case core => exact nextWord_core_busy hcore (s.busy_eq_true_iff.2 hop)
  case decoded => exact step_of_nextOp (nextOp_of_nextWord hw hd)

end

section
/-! SUPPORT. The statements of 10_state.md: what each operation does to the registers, the invariant and the history that every
step keeps, and what reaches the host. -/

namespace Sys2Proof.Machine

/-! ### What an operation can do -/

/-- What the performance of an operation makes of a state: one case for each way a rule answers it, named by the shared
operations of Machine/Ops.lean. -/
inductive Effect : Instr → State → State → Prop
  /-- NOP (R121) -/
  | nop {s din} : Effect (.nop din) s s
  /-- LDKEY dropped by a busy core (R122) -/
  | ldkeyDropped {s din} (hb : s.busy = true) : Effect (.ldkey din) s (s.raiseError eBusy)
  /-- LDKEY accepted (R122) -/
  | ldkeyAccepted {s din} (hb : s.busy = false) : Effect (.ldkey din) s (s.acceptLdkey din)
  /-- ENC dropped, by a busy core or without a schedule (R123) -/
  | encDropped {s din code} (hd : s.busy = true ∨ s.krdy = false) : Effect (.enc din) s (s.raiseError code)
  /-- ENC accepted (R123) -/
  | encAccepted {s din} (hb : s.busy = false) (hk : s.krdy = true) : Effect (.enc din) s (s.acceptEnc din)
  /-- the reserved code (R124) -/
  | rsvd {s din} : Effect (.rsvd din) s (s.raiseError eRsvd)
  /-- ReadStatus (R120, R20) -/
  | rdstat {s} : Effect .rdstat s (s.replyWith (.status s.status))
  /-- ReadDout while `OVLD = 1` (R120, R12) -/
  | rdoutValid {s} (ho : s.ovld = true) : Effect .rdout s (s.replyWith (.dout s.dout))
  /-- ReadDout while `OVLD = 0`: a draw (R12) -/
  | rdoutDraw {s} (ho : s.ovld = false) : Effect .rdout s (s.countDraw.replyWith (.dout (s.drawn 0)))
  /-- Reset (R170) -/
  | reset {s} : Effect .reset s s.resetCore
  /-- a micro-operation that `SEQ` does not enable (assumption log 7, 8) -/
  | notEnabled {s i} (hf : i.format = .uop) (hsel : s.seq.selected = some i → i = .kexp 0) : Effect i s s
  /-- a round key is written (R112) -/
  | kexp {s} {m : Round} (hq : s.seq = { op := .kx, rnd := m, ph := .ark }) (h1 : 1 ≤ m.val) (h10 : m.val < 10) :
      Effect (.kexp m) s ((s.setRk m (Machine.kexp s.rk[m.val - 1] m)).goTo .kx ⟨m.val + 1, by omega⟩ .ark)
  /-- the last round key is written (R112) -/
  | kexpLast {s} {m : Round} (hq : s.seq = { op := .kx, rnd := m, ph := .ark }) (h10 : m = 10) :
      Effect (.kexp m) s (s.setRk m (Machine.kexp s.rk[m.val - 1] m)).completeLdkey
  /-- a step of an encryption before the last: the transform of its position, and `SEQ` advances (R113) -/
  | transform {s i} {r r' : Round} {ph ph' : Phase} (hq : s.seq = { op := .en, rnd := r, ph := ph })
      (hsel : s.seq.selected = some i) (hadv : s.seq.advance = { op := .en, rnd := r', ph := ph' }) :
      Effect i s ((s.setSt (transformAt s.rk r ph s.st)).goTo .en r' ph')
  /-- the last step of an encryption (R113) -/
  | arkLast {s} (hq : s.seq = { op := .en, rnd := 10, ph := .ark }) :
      Effect (.ark 10) s ((s.setSt (Machine.ark s.st s.rk[(10 : Round)])).completeEnc (Machine.ark s.st s.rk[(10 : Round)]))
  /-- a function unit delivers a value (R75, R83) -/
  | unit {s i} (v : UnitResult) (hf : i.format = .func) : Effect i s (s.deliver v)

/-- An operation is selected at one position only (30_encoding.md R59). -/
theorem selected_inj {q q' : Seq} {i : Instr} (h : q.selected = some i) (h' : q'.selected = some i) : q = q' := by
  grind [selected_cases h, selected_cases h']

/-- A round index that is not below 10 is 10. -/
theorem round_eq_ten {r : Round} (h : ¬ r.val < 10) : r = 10 := by
  ext
  show r.val = 10
  omega

/-- Where `SEQ` is not the position that selects a micro-operation, the micro-operation is not performed. -/
theorem Effect.of_position_ne {s : State} {i : Instr} {q : Seq} (hf : i.format = .uop) (hi : q.selected = some i)
    (hne : ¬ s.seq = q) : Effect i s s :=
  .notEnabled hf fun hsel => absurd (selected_inj hsel hi) hne

theorem effect_of_execLdkey {k : Block} {s t : State} (h : execLdkey k s = .next t) : Effect (.ldkey k) s t := by
  rw [execLdkey] at h
  split at h <;> cases h
  case isTrue hb => exact .ldkeyDropped hb
  case isFalse hb => exact .ldkeyAccepted (Bool.eq_false_iff.2 hb)

theorem effect_of_execEnc {p : Block} {s t : State} (h : execEnc p s = .next t) : Effect (.enc p) s t := by
  rw [execEnc] at h
  split at h
  next hb =>
    cases h
    exact .encDropped (.inl hb)
  next hb =>
    split at h <;> cases h
    case isTrue hk => exact .encAccepted (Bool.eq_false_iff.2 hb) hk
    case isFalse hk => exact .encDropped (.inr (Bool.eq_false_iff.2 hk))

theorem effect_of_execRdout {s t : State} (h : execRdout s = .next t) : Effect .rdout s t := by
  rw [execRdout] at h
  split at h <;> cases h
  case isTrue ho => exact .rdoutValid ho
  case isFalse ho => exact .rdoutDraw (Bool.eq_false_iff.2 ho)

theorem effect_of_execKexp {m : Round} {s t : State} (h : execKexp m s = .next t) : Effect (.kexp m) s t := by
  rw [execKexp] at h
  split at h
  next hc =>
    obtain ⟨hq, h1⟩ := hc
    split at h <;> cases h
    case isTrue h10 => exact .kexp hq h1 h10
    case isFalse h10 => exact .kexpLast hq (round_eq_ten h10)
  next hc =>
    cases h
    refine .notEnabled rfl fun hsel => congrArg Instr.kexp (Fin.ext ?_)
    have hq := selected_inj (q' := { op := .kx, rnd := m, ph := .ark }) hsel rfl
    show m.val = 0
    by_contra h0
    exact hc ⟨hq, by omega⟩

theorem effect_of_execArk {r : Round} {s t : State} (h : execArk r s = .next t) : Effect (.ark r) s t := by
  rw [execArk] at h
  split at h
  next hq =>
    split at h <;> cases h
    case isTrue h10 => exact .transform (r := r) (ph := .ark) hq (by rw [hq]; rfl) (by simp [hq, Seq.advance, h10])
    case isFalse h10 =>
      cases round_eq_ten h10
      exact .arkLast hq
  next hq =>
    cases h
    exact .of_position_ne rfl rfl hq

/-- SB, SR and MC at their own position, or not enabled. -/
theorem effect_of_transform {i : Instr} {r : Round} {ph ph' : Phase} {s t : State}
    (hf : i.format = .uop) (hi : Seq.selected { op := .en, rnd := r, ph := ph } = some i)
    (hadv : Seq.advance { op := .en, rnd := r, ph := ph } = { op := .en, rnd := r, ph := ph' })
    (h : (if s.seq = { op := .en, rnd := r, ph := ph } then
        Host.Outcome.next ((s.setSt (transformAt s.rk r ph s.st)).goTo .en r ph')
      else .next s : Host.Outcome State Fault Refusal) = .next t) : Effect i s t := by
  split at h <;> cases h
  case isTrue hq => exact .transform hq (by rw [hq, hi]) (by rw [hq, hadv])
  case isFalse hq => exact .of_position_ne hf hi hq

/-- Everything the performance of an operation can do. -/
theorem exec_effect {i : Instr} {s t : State} (h : exec i s = .next t) : Effect i s t := by
  cases i with
  | nop => cases h; exact .nop
  | ldkey => exact effect_of_execLdkey h
  | enc => exact effect_of_execEnc h
  | rsvd => cases h; exact .rsvd
  | rdstat => cases h; exact .rdstat
  | rdout => exact effect_of_execRdout h
  | reset => cases h; exact .reset
  | kexp => exact effect_of_execKexp h
  | ark => exact effect_of_execArk h
  | sb => exact effect_of_transform (ph := .sb) rfl rfl rfl h
  | sr => exact effect_of_transform (ph := .sr) rfl rfl rfl h
  | mc => exact effect_of_transform (ph := .mc) rfl rfl rfl h
  | gfmul | xtime | sbox | kscore | expand | encblk => cases h; exact .unit _ rfl

/-! ### Which operation a turn selects -/

theorem format_decodeCommand (cmd : BitVec 2) (din : Block) : (decodeCommand cmd din).format = .cmd := by
  unfold decodeCommand
  split_ifs <;> rfl

theorem format_selected {q : Seq} {i : Instr} (h : q.selected = some i) : i.format = .uop := by
  obtain ⟨rfl, -⟩ | ⟨rfl, -⟩ | ⟨rfl, -⟩ | ⟨rfl, -⟩ | ⟨rfl, -⟩ := selected_cases h <;> rfl

theorem format_unitCall (call : UnitCall) : call.instr.format = .func := by cases call <;> rfl

/-- The turn that selects an operation, by the operation's format (30_encoding.md R59). -/
theorem turn_of_nextOp {s : State} {i : Instr} (h : s.nextOp = some i) :
    match i.format with
    | .cmd => ∃ cmd din, s.turn = .issue cmd din
    | .port => s.turn = .readStatus ∧ i = .rdstat ∨ s.turn = .readDout ∧ i = .rdout ∨ s.turn = .reset ∧ i = .reset
    | .uop => s.seq.selected = some i
    | .func => ∃ call, s.turn = .unit call := by
  cases ht : s.turn with
  | core =>
    have hsel := (nextOp_core ht).symm.trans h
    simpa only [format_selected hsel] using hsel
  | issue cmd din =>
    cases (nextOp_issue ht).symm.trans h
    simp [format_decodeCommand]
  | readStatus =>
    cases (nextOp_readStatus ht).symm.trans h
    simp [Instr.format]
  | readDout =>
    cases (nextOp_readDout ht).symm.trans h
    simp [Instr.format]
  | reset =>
    cases (nextOp_reset ht).symm.trans h
    simp [Instr.format]
  | unit call =>
    cases (nextOp_unit ht).symm.trans h
    simp [format_unitCall]

/-- A micro-operation is performed next only where `SEQ` selects it. -/
theorem selected_of_nextOp {s : State} {i : Instr} (h : s.nextOp = some i) (hf : i.format = .uop) :
    s.seq.selected = some i := by
  have ht := turn_of_nextOp h
  rwa [hf] at ht

theorem turn_of_nextOp_rdstat {s : State} (h : s.nextOp = some .rdstat) : s.turn = .readStatus := by
  simpa [Instr.format] using turn_of_nextOp h

theorem turn_of_nextOp_rdout {s : State} (h : s.nextOp = some .rdout) : s.turn = .readDout := by
  simpa [Instr.format] using turn_of_nextOp h

theorem turn_of_nextOp_reset {s : State} (h : s.nextOp = some .reset) : s.turn = .reset := by
  simpa [Instr.format] using turn_of_nextOp h

/-- Everything a step can do: the effect of the selected operation once the turn is taken, or the turn alone. -/
theorem step_effect {s t : State} (h : step s = .next t) :
    (∃ i, s.nextOp = some i ∧ Effect i s.popTurn t) ∨ (s.nextOp = none ∧ t = s.popTurn) := by
  obtain ⟨i, hi, he⟩ | ⟨hn, ht⟩ := step_cases h
  · exact .inl ⟨i, hi, exec_effect he⟩
  · cases ht
    exact .inr ⟨hn, rfl⟩

/-! ### Registers -/

/-- A micro-operation of an encryption is one of the four transforms. -/
theorem transform_of_selected {r : Round} {ph : Phase} {i : Instr}
    (h : Seq.selected { op := .en, rnd := r, ph := ph } = some i) :
    ∃ r, i = .ark r ∨ i = .sb r ∨ i = .sr r ∨ i = .mc r := by
  refine ⟨r, ?_⟩
  cases ph <;> cases h <;> simp

/-! ### Errors -/

/-- A recorded error is kept by every operation but Reset (60_exceptions.md R154). -/
theorem Effect.ecode_eq {i : Instr} {s t : State} (h : Effect i s t) (he : s.ecode ≠ 0) (hr : i ≠ .reset) :
    t.ecode = s.ecode := by
  cases h with
  | ldkeyDropped | encDropped | rsvd => exact s.raiseError_keeps _ he
  | reset => exact absurd rfl hr
  | _ => rfl

/-! ### What the host is given -/

/-- The bits of STATUS that tell of an error; `status_bits` has the others (10_state.md R20). -/
theorem status_error_bits (s : State) : s.status.getLsbD 3 = s.err ∧ s.status.extractLsb' 4 2 = s.ecode := by
  unfold State.status
  generalize s.err = e, s.busy = b, s.krdy = k, s.ovld = o, s.ecode = c
  revert c
  cases e <;> cases b <;> cases k <;> cases o <;> decide

/-- STATUS is a function of BUSY, the flags and ECODE (10_state.md R20). -/
theorem State.status_congr {s s' : State} (hb : s.busy = s'.busy) (hk : s.krdy = s'.krdy) (ho : s.ovld = s'.ovld)
    (he : s.ecode = s'.ecode) : s.status = s'.status := by
  simp only [State.status, State.err, hb, hk, ho, he]

/-- The replies of the next step, unless it takes a draw for the host (45_commands.md R120). -/
def State.shown (s : State) : List Reply :=
  match s.turn with
  | .readStatus => [.status s.status]
  | .readDout => [.dout s.dout]
  | .core | .issue _ _ | .reset | .unit _ => []

theorem Effect.seen_eq {i : Instr} {s t : State} (h : Effect i s t) (hs : i ≠ .rdstat) (hd : i ≠ .rdout) :
    t.seen = s.seen := by
  cases h with
  | rdstat => exact absurd rfl hs
  | rdoutValid | rdoutDraw => exact absurd rfl hd
  | _ => rfl

/-- Only the two reads give the host anything. -/
theorem seen_of_step_no_read {s t : State} (h : step s = .next t) (hs : s.turn ≠ .readStatus) (hd : s.turn ≠ .readDout) :
    t.seen = s.seen := by
  obtain ⟨i, hi, heff⟩ | ⟨-, rfl⟩ := step_effect h
  · refine heff.seen_eq ?_ ?_ <;> rintro rfl
    · exact hs (turn_of_nextOp_rdstat hi)
    · exact hd (turn_of_nextOp_rdout hi)
  · rfl

/-- A step that takes no draw for the host adds exactly what is shown to what the host has read. -/
theorem seen_of_step {s t : State} (h : step s = .next t) (hread : s.turn = .readDout → s.ovld = true) :
    t.seen = s.seen ++ s.shown := by
  cases ht : s.turn with
  | readStatus =>
    cases (step_of_nextOp (nextOp_readStatus ht)).symm.trans h
    simp only [State.shown, ht]
    rfl
  | readDout =>
    have hx : execRdout s.popTurn = .next t := (step_of_nextOp (nextOp_readDout ht)).symm.trans h
    have ho : s.popTurn.ovld = true := hread ht
    rw [execRdout, if_pos ho] at hx
    cases hx
    simp only [State.shown, ht]
    rfl
  | core | issue | reset | unit =>
    simp [State.shown, ht, seen_of_step_no_read h]

/-! ### The invariant -/

theorem expand_zero (key : Block) : (expand key)[0] = key := expand_getElem key 0 (by decide)

theorem expand_succ (key : Block) (m : Nat) (h : m + 1 < 11) :
    (expand key)[m + 1] = kexp (expand key)[m] ⟨m + 1, h⟩ := by
  rw [expand_getElem, expand_getElem]
  rfl

/-- Round keys 0 to `m` are those of the schedule of round key 0 (42_key_expansion.md R92). -/
def ExpandedTo (rk : Sched) (m : Nat) : Prop := ∀ j : Round, j.val ≤ m → rk[j] = (expand rk[0])[j]

theorem ExpandedTo.zero (rk : Sched) : ExpandedTo rk 0 := by
  intro j hj
  obtain rfl : j = 0 := Fin.ext (Nat.le_zero.1 hj)
  exact (expand_zero _).symm

/-- Writing the round key made from the one before extends the schedule by one (44_block_encrypt.md R112). -/
theorem ExpandedTo.set_kexp {rk : Sched} {m : Round} (h1 : 1 ≤ m.val) (h : ExpandedTo rk (m.val - 1)) :
    ExpandedTo (rk.set m.val (kexp rk[m.val - 1] m)) m.val := by
  obtain ⟨_ | m, hm⟩ := m
  · cases h1
  intro j hj
  have hprev : rk[m] = (expand rk[0])[m] := h ⟨m, by omega⟩ (le_refl m)
  have hzero : (rk.set (m + 1) (kexp rk[m] ⟨m + 1, hm⟩))[0] = rk[0] := Vector.getElem_set_ne _ _ (by omega)
  simp only [Nat.add_sub_cancel, hzero]
  by_cases hlast : j.val = m + 1
  · obtain rfl : j = ⟨m + 1, hm⟩ := Fin.ext hlast
    simp [expand_succ, hprev]
  · simp only [Fin.getElem_fin]
    rw [Vector.getElem_set_ne _ _ (Ne.symm hlast)]
    exact h j (by simp only at hj ⊢; omega)

theorem ExpandedTo.eq_expand {rk : Sched} {m : Nat} (h : ExpandedTo rk m) (hm : m = 10) : rk = expand rk[0] := by
  ext1 j hj
  exact h ⟨j, hj⟩ (by simp only; omega)

/-- While an LDKEY is in progress, the round keys before the one of its position are the schedule's. -/
theorem State.Inv.expandedTo {s : State} (hi : s.Inv) {m : Round} (hq : s.seq = { op := .kx, rnd := m, ph := .ark })
    (h1 : 1 ≤ m.val) : ExpandedTo s.rk (m.val - 1) := by
  intro j hj
  refine hi.partialSchedule (by rw [hq]) j ?_
  rw [hq]
  show j.val < m.val
  omega

/-- A core about to write round key `m` meets the invariant when those before it are the schedule's. -/
theorem State.Inv.of_expanding {s : State} {m : Nat} {hm : m + 1 < 11}
    (hq : s.seq = { op := .kx, rnd := ⟨m + 1, hm⟩, ph := .ark }) (hk : s.krdy = false)
    (hx : ExpandedTo s.rk m) : s.Inv where
  legal := by simp [hq, Seq.legal]
  schedule := fun h => by rw [hk] at h; cases h
  encrypting := fun h => by rw [hq] at h; cases h
  expanding := fun _ => hk
  partialSchedule := fun _ j hj => hx j (by rw [hq] at hj; exact Nat.le_of_lt_succ hj)

/-- No operation breaks the invariant. -/
theorem Effect.inv {i : Instr} {s t : State} (h : Effect i s t) (hi : s.Inv) : t.Inv := by
  cases h with
  | nop | notEnabled => exact hi
  | ldkeyDropped | encDropped | rsvd | rdstat | rdoutValid | rdoutDraw | unit => exact hi.congr rfl rfl rfl
  | ldkeyAccepted => exact .of_expanding (m := 0) rfl rfl (.zero _)
  | encAccepted _ hk => exact .of_encrypting rfl rfl hk (hi.schedule hk)
  | reset => exact .of_idle rfl fun h => by cases h
  | kexp hq h1 _ =>
    exact .of_expanding rfl (hi.expanding (by rw [hq])) (.set_kexp h1 (hi.expandedTo hq h1))
  | @kexpLast _ m hq h10 =>
    have h1 : 1 ≤ m.val := by rw [h10]; decide
    exact .of_idle rfl fun _ => (ExpandedTo.set_kexp h1 (hi.expandedTo hq h1)).eq_expand (congrArg Fin.val h10)
  | transform hq _ hadv =>
    have hk := hi.encrypting (by rw [hq])
    exact .of_encrypting rfl (by rw [State.goTo_seq, ← hadv]; exact (advance_legal _ hi.legal).1) hk (hi.schedule hk)
  | arkLast hq => exact .of_idle rfl (by simpa using hi.schedule)

/-! ### The history -/

/-- The history speaks of `SEQ`, `RK`, `KRDY`, `ST`, `OVLD` and `DOUT` only. -/
theorem History.Explains.congr {h : History} {s t : State} (he : h.Explains s) (hq : t.seq = s.seq) (hr : t.rk = s.rk)
    (hk : t.krdy = s.krdy) (hs : t.st = s.st) (ho : t.ovld = s.ovld) (hd : t.dout = s.dout) : h.Explains t where
  key := by rw [hq, hr, hk]; exact he.key
  inFlight := by rw [hq, hr, hs]; exact he.inFlight
  output := by rw [ho, hd]; exact he.output

theorem History.record_no_op {h : History} {s : State} (hn : s.nextOp = Option.none) : h.record s = h := by
  unfold History.record
  rw [hn]

/-- An operation that is no command, no Reset and no last step of an encryption is not recorded. -/
theorem History.record_other {h : History} {s : State} {i : Instr} (hn : s.nextOp = some i) (hc : i.format ≠ .cmd)
    (hr : i ≠ .reset) (ha : i ≠ .ark 10) : h.record s = h := by
  cases i with
  | nop | ldkey | enc | rsvd => exact absurd rfl hc
  | reset => exact absurd rfl hr
  | ark r =>
    simp only [History.record, hn]
    exact if_neg fun h10 => ha (congrArg Instr.ark (Fin.ext h10))
  | rdstat | rdout | kexp | sb | sr | mc | gfmul | xtime | sbox | kscore | expand | encblk => simp only [History.record, hn]

theorem History.record_nop {h : History} {s : State} {b : Block} (hn : s.nextOp = some (.nop b)) : h.record s = h := by
  simp only [History.record, hn]

theorem History.record_rsvd {h : History} {s : State} {b : Block} (hn : s.nextOp = some (.rsvd b)) : h.record s = h := by
  simp only [History.record, hn]

theorem History.record_ldkey {h : History} {s : State} {k : Block} (hn : s.nextOp = some (.ldkey k)) :
    h.record s = if s.busy then h else { h with key := some k } := by
  simp only [History.record, hn]

theorem History.record_enc {h : History} {s : State} {p : Block} (hn : s.nextOp = some (.enc p)) :
    h.record s = if s.busy || !s.krdy then h else { h with current := some (p, s.rk) } := by
  simp only [History.record, hn]

theorem History.record_arkLast {h : History} {s : State} (hn : s.nextOp = some (.ark 10)) :
    h.record s = { h with completed := h.current } := by
  simp only [History.record, hn]
  rfl

theorem History.record_reset {h : History} {s : State} (hn : s.nextOp = some .reset) : h.record s = .none := by
  simp only [History.record, hn]

/-! ### The forty steps -/

/-- The forty positions follow one another as `SEQ` advances (44_block_encrypt.md R111, R113). -/
theorem advance_encPosition : ∀ n : Fin 39,
    Seq.advance { op := .en, rnd := (encPosition n.val).1, ph := (encPosition n.val).2 } =
      { op := .en, rnd := (encPosition (n.val + 1)).1, ph := (encPosition (n.val + 1)).2 } := by decide

/-- Where `SEQ` advances within an encryption, it goes to the next of the forty positions. -/
theorem encPosition_of_advance {n : Nat} {r r' : Round} {ph ph' : Phase} (hn : n < 40) (hpos : (r, ph) = encPosition n)
    (hadv : Seq.advance { op := .en, rnd := r, ph := ph } = { op := .en, rnd := r', ph := ph' }) :
    n + 1 < 40 ∧ (r', ph') = encPosition (n + 1) := by
  have hr : (encPosition n).1 = r := congrArg Prod.fst hpos.symm
  have hph : (encPosition n).2 = ph := congrArg Prod.snd hpos.symm
  by_cases hlast : n = 39
  · subst hlast
    subst hr hph
    cases hadv
  · have hnext := advance_encPosition ⟨n, by omega⟩
    simp only [hr, hph, hadv, Seq.mk.injEq] at hnext
    exact ⟨by omega, Prod.ext hnext.2.1 hnext.2.2⟩

/-- The positions of a full round (44_block_encrypt.md R111). -/
theorem encPosition_round : ∀ n : Fin 9,
    encPosition (4 * n.val + 1) = (n.succ.castSucc, .sb) ∧ encPosition (4 * n.val + 2) = (n.succ.castSucc, .sr) ∧
      encPosition (4 * n.val + 3) = (n.succ.castSucc, .mc) ∧ encPosition (4 * n.val + 4) = (n.succ.castSucc, .ark) := by
  decide

/-- After `4n + 1` steps the State is the one after `n` full rounds (44_block_encrypt.md R110, R111). -/
theorem stateAfter_fullRounds (p : Block) (rk : Sched) (n : Nat) (h : n < 10) :
    stateAfter p rk (4 * n + 1) = fullRounds p rk n (by omega) := by
  induction n with
  | zero => rfl
  | succ n ih =>
    obtain ⟨hsb, hsr, hmc, hark⟩ := encPosition_round ⟨n, by omega⟩
    have hn : 4 * (n + 1) + 1 = 4 * n + 1 + 1 + 1 + 1 + 1 := by omega
    rw [hn, stateAfter_succ, stateAfter_succ, stateAfter_succ, stateAfter_succ, ih (by omega), fullRounds_succ, hsb, hsr, hmc,
      hark]
    rfl

/-- The forty steps compute ENCBLK (44_block_encrypt.md R111). -/
theorem stateAfter_forty (p : Block) (rk : Sched) : stateAfter p rk 40 = encBlk p rk := by
  have h37 : stateAfter p rk 37 = fullRounds p rk 9 (by decide) := stateAfter_fullRounds p rk 9 (by decide)
  rw [encBlk, ← h37]
  rfl

/-! ### The history explains the state after every operation -/

/-- The empty history explains an idle core without key and output. -/
theorem History.none_explains {s : State} (hq : s.seq = Seq.idle) (hk : s.krdy = false) (ho : s.ovld = false) :
    History.none.Explains s where
  key := by simp [hq, hk, Seq.idle]
  inFlight := by simp [hq, Seq.idle]
  output := by simp [ho]

/-- LDKEY accepted: its operand is round key 0 (45_commands.md R122). -/
theorem History.Explains.acceptLdkey {h : History} {s : State} (he : h.Explains s) (k : Block) :
    ({ h with key := some k } : History).Explains (s.acceptLdkey k) where
  key := fun _ => by rw [State.acceptLdkey_rk_zero]
  inFlight := fun hop => by cases hop
  output := he.output

/-- ENC accepted: no step is taken yet, and the output is invalid (45_commands.md R123). -/
theorem History.Explains.acceptEnc {h : History} {s : State} (he : h.Explains s) (hk : s.krdy = true) (p : Block) :
    ({ h with current := some (p, s.rk) } : History).Explains (s.acceptEnc p) where
  key := fun _ => he.key (.inl hk)
  inFlight := fun _ => ⟨p, 0, by decide, rfl, rfl, rfl⟩
  output := fun ho => by cases ho

/-- Writing a later round key leaves round key 0 (44_block_encrypt.md R112). -/
theorem State.setRk_rk_zero (s : State) {m : Round} (v : Block) (h1 : 1 ≤ m.val) : (s.setRk m v).rk[0] = s.rk[0] :=
  Vector.getElem_set_ne m.isLt _ (by omega)

/-- While a schedule is written, round key 0 stays and no encryption is in flight (44_block_encrypt.md R112). -/
theorem History.Explains.of_expanding {h : History} {s t : State} (he : h.Explains s) (hkx : s.seq.op = .kx)
    (hrk : t.rk[0] = s.rk[0]) (hop : t.seq.op ≠ .en) (ho : t.ovld = s.ovld) (hd : t.dout = s.dout) : h.Explains t where
  key := fun _ => by rw [hrk]; exact he.key (.inr hkx)
  inFlight := fun hen => absurd hen hop
  output := by rw [ho, hd]; exact he.output

/-- A transform before the last is one more of the forty steps (44_block_encrypt.md R111, R113). -/
theorem History.Explains.transform {h : History} {s : State} {r r' : Round} {ph ph' : Phase} (he : h.Explains s)
    (hi : s.Inv) (hq : s.seq = { op := .en, rnd := r, ph := ph })
    (hadv : s.seq.advance = { op := .en, rnd := r', ph := ph' }) :
    h.Explains ((s.setSt (transformAt s.rk r ph s.st)).goTo .en r' ph') where
  key := fun _ => he.key (.inl (hi.encrypting (by rw [hq])))
  inFlight := fun _ => by
    obtain ⟨p, n, hn, hcur, hpos, hst⟩ := he.inFlight (by rw [hq])
    rw [hq] at hpos hadv
    obtain ⟨hn', hpos'⟩ := encPosition_of_advance hn hpos hadv
    exact ⟨p, n + 1, hn', hcur, hpos', by simp [stateAfter_succ, ← hst, ← hpos]⟩
  output := he.output

/-- The fortieth step completes the encryption (44_block_encrypt.md R111, R113). -/
theorem History.Explains.completeEnc {h : History} {s : State} {v : Block} (he : h.Explains s) (hi : s.Inv)
    (hq : s.seq = { op := .en, rnd := 10, ph := .ark }) (hv : v = transformAt s.rk 10 .ark s.st) :
    ({ h with completed := h.current } : History).Explains ((s.setSt v).completeEnc v) where
  key := fun _ => he.key (.inl (hi.encrypting (by rw [hq])))
  inFlight := fun hen => by cases hen
  output := fun _ => by
    obtain ⟨p, n, hn, hcur, hpos, hst⟩ := he.inFlight (by rw [hq])
    rw [hq] at hpos
    have h39 : encPosition 39 = encPosition n := hpos
    cases encPosition_injective 39 ⟨n, hn⟩ h39
    exact ⟨p, s.rk, hcur, by rw [State.completeEnc_dout, hv, hst, ← stateAfter_forty]; rfl⟩

/-- Every operation that is performed keeps the history true. -/
theorem Effect.explains {h : History} {i : Instr} {s t : State} (heff : Effect i s.popTurn t) (hn : s.nextOp = some i)
    (hi : s.Inv) (he : h.Explains s) : (h.record s).Explains t := by
  have hi' : s.popTurn.Inv := hi.congr rfl rfl rfl
  have he' : h.Explains s.popTurn := he.congr rfl rfl rfl rfl rfl rfl
  cases heff with
  | nop =>
    rw [History.record_nop hn]
    exact he'
  | rsvd =>
    rw [History.record_rsvd hn]
    exact he.congr rfl rfl rfl rfl rfl rfl
  | ldkeyDropped hb =>
    rw [History.record_ldkey hn, if_pos (show s.busy = true from hb)]
    exact he.congr rfl rfl rfl rfl rfl rfl
  | ldkeyAccepted hb =>
    rw [History.record_ldkey hn, if_neg (Bool.eq_false_iff.1 (show s.busy = false from hb))]
    exact he'.acceptLdkey _
  | encDropped hd =>
    rw [History.record_enc hn, if_pos (by simpa using hd)]
    exact he.congr rfl rfl rfl rfl rfl rfl
  | encAccepted hb hk =>
    rw [History.record_enc hn, if_neg (by simp_all)]
    exact he'.acceptEnc hk _
  | rdstat | rdoutValid | rdoutDraw =>
    rw [History.record_other hn nofun nofun nofun]
    exact he.congr rfl rfl rfl rfl rfl rfl
  | unit _ hf =>
    rw [History.record_other hn (by simp [hf]) (by rintro rfl; cases hf) (by rintro rfl; cases hf)]
    exact he.congr rfl rfl rfl rfl rfl rfl
  | reset =>
    rw [History.record_reset hn]
    exact History.none_explains rfl rfl rfl
  | notEnabled hf hsel =>
    cases hsel (selected_of_nextOp (s := s) hn hf)
    rw [History.record_other hn nofun nofun nofun]
    exact he'
  | kexp hq h1 =>
    rw [History.record_other hn nofun nofun nofun]
    exact he'.of_expanding (by rw [hq]) (s.popTurn.setRk_rk_zero _ h1) nofun rfl rfl
  | kexpLast hq h10 =>
    rw [History.record_other hn nofun nofun nofun]
    exact he'.of_expanding (by rw [hq]) (s.popTurn.setRk_rk_zero _ (by rw [h10]; decide)) nofun rfl rfl
  | transform hq hsel hadv =>
    have hlast : i ≠ .ark 10 := by
      rintro rfl
      rw [selected_inj (q' := { op := .en, rnd := 10, ph := .ark }) hsel rfl] at hadv
      cases hadv
    rw [History.record_other hn (by simp [format_selected hsel]) (by rintro rfl; cases format_selected hsel) hlast]
    exact he'.transform hi' hq hadv
  | arkLast hq =>
    rw [History.record_arkLast hn]
    exact he'.completeEnc hi' hq rfl

end Sys2Proof.Machine

open Sys2Proof Sys2Proof.Machine

/-- Settles O47: whatever operation the step performs, it keeps the invariant. -/
theorem everyStepKeepsTheInvariant : Obligations.EveryStepKeepsTheInvariant := by
  intro s t hi h
  have hi' : s.popTurn.Inv := hi.congr rfl rfl rfl
  obtain ⟨i, -, heff⟩ | ⟨-, rfl⟩ := step_effect h
  · exact heff.inv hi'
  · exact hi'

/-- Settles O48: whatever operation the step performs, the recorded history explains its result. -/
theorem everyStepKeepsTheHistoryTrue : Obligations.EveryStepKeepsTheHistoryTrue := by
  intro h s t hi he hstep
  obtain ⟨i, hn, heff⟩ | ⟨hn, rfl⟩ := step_effect hstep
  · exact heff.explains hn hi he
  · rw [History.record_no_op hn]
    exact he.congr rfl rfl rfl rfl rfl rfl

/-- Settles O15: each effect changes only the registers that R10's column "written by" names for its operation. -/
theorem registersChangeOnlyWhereTheTableSays : Obligations.RegistersChangeOnlyWhereTheTableSays := by
  intro i s t h
  cases exec_effect h with
  | notEnabled => simp
  | transform hq hsel => simp [format_selected hsel, transform_of_selected (hq ▸ hsel)]
  | kexpLast _ h10 => simp [Instr.format, h10]
  | unit _ hf => simp [hf]
  | _ => simp [Instr.format]

/-- Settles O52: only Reset, which its turn alone selects, overwrites a recorded error. -/
theorem recordedErrorStaysUntilReset : Obligations.RecordedErrorStaysUntilReset := by
  intro s t he hturn h
  obtain ⟨i, hi, heff⟩ | ⟨-, rfl⟩ := step_effect h
  · exact heff.ecode_eq he fun hr => hturn (turn_of_nextOp_reset (hr ▸ hi))
  · rfl

/-- Settles O55: what a step shows the host depends on the turn, STATUS and DOUT alone. -/
theorem hiddenRegistersReachNoPort : Obligations.HiddenRegistersReachNoPort := by
  intro s s' t t' hb hk ho he hd ha hseen hread h h'
  have hturn : s.turn = s'.turn := by rw [State.turn, State.turn, ha]
  have hshown : s.shown = s'.shown := by
    rw [State.shown, State.shown, hturn, State.status_congr hb hk ho he, hd]
  have hread' : s'.turn = .readDout → s'.ovld = true := fun hr => ho ▸ hread (hturn.trans hr)
  rw [seen_of_step h hread, seen_of_step h' hread', hseen, hshown]

/-- Settles O6: STATUS read bit by bit. -/
theorem readStatusGivesTheFields : Obligations.ReadStatusGivesTheFields := by
  intro s
  obtain ⟨hkrdy, hbusy, hovld⟩ := status_bits s
  obtain ⟨herr, hecode⟩ := status_error_bits s
  refine ⟨s.status, rfl, hkrdy, hbusy.trans ?busy, hovld, herr.trans ?err, hecode⟩
  case busy => simp [State.busy, bne, Bool.beq_eq_decide_eq]
  case err => simp [State.err, bne, Bool.beq_eq_decide_eq]

/-- Settles O9: the reset state holds these values by definition, and STATUS of them is six zeros. -/
theorem resetStateHasTheSpecifiedFields : Obligations.ResetStateHasTheSpecifiedFields := ⟨rfl, rfl, rfl, rfl, rfl⟩

/-- Settles O40: of the 132 positions, those that are legal are counted. -/
theorem fiftyOnePositionsAreLegal : Obligations.FiftyOnePositionsAreLegal := by
  unfold Obligations.FiftyOnePositionsAreLegal
  decide

/-- Settles O46: a core just reset is idle, without key and output. -/
theorem invariantAndHistoryHoldAtReset : Obligations.InvariantAndHistoryHoldAtReset :=
  ⟨.of_idle rfl nofun, History.none_explains rfl rfl rfl⟩

end

section
/-! SUPPORT. The statements of 20_memory.md: the bytes of a block on 128 bits, and the entries of the constant tables. -/

namespace Sys2Proof

/-! ### Block packing -/

theorem Block.ofBits_getElem (v : BitVec 128) (i : Fin 16) : (Block.ofBits v)[i] = v.extractLsb' (120 - 8 * i.val) 8 := by
  simp [Block.ofBits]

/-- Byte `i` is the high part of what is left once the `i` bytes above it are passed over; byte 15 is all that is left. -/
theorem Block.toBits_byte (b : Block) (i : Fin 16) : (Block.toBits b).extractLsb' (120 - 8 * i.val) 8 = b[i] := by
  cases i using Fin.lastCases with
  | last =>
    iterate 15 refine (BitVec.extractLsb'_append_eq_of_add_le (by decide)).trans ?_
    exact BitVec.extractLsb'_eq_self
  | cast i =>
    fin_cases i
    all_goals
      repeat refine (BitVec.extractLsb'_append_eq_of_add_le (by decide)).trans ?_
      exact BitVec.extractLsb'_append_eq_left

/-- A 128-bit vector is determined by its sixteen bytes: bit `k` lies in byte `15 - k / 8`. -/
theorem eq_of_bytes_eq {v w : BitVec 128}
    (h : ∀ i : Fin 16, v.extractLsb' (120 - 8 * i.val) 8 = w.extractLsb' (120 - 8 * i.val) 8) : v = w := by
  refine BitVec.eq_of_getLsbD_eq fun k hk => ?_
  have hbit := congrArg (·.getLsbD (k % 8)) (h ⟨15 - k / 8, by omega⟩)
  have hpos : 120 - 8 * (15 - k / 8) + k % 8 = k := by omega
  simpa [BitVec.getLsbD_extractLsb', hpos, Nat.mod_lt] using hbit

theorem Block.ofBits_toBits (b : Block) : Block.ofBits (Block.toBits b) = b := by
  ext1 i hi
  exact (Block.ofBits_getElem _ ⟨i, hi⟩).trans (Block.toBits_byte b ⟨i, hi⟩)

theorem Block.toBits_ofBits (v : BitVec 128) : Block.toBits (Block.ofBits v) = v :=
  eq_of_bytes_eq fun i => (Block.toBits_byte _ i).trans (Block.ofBits_getElem v i)

end Sys2Proof

namespace Sys2Proof.Machine

/-! ### The substitution table -/

theorem highNibble_toNat (b : Byte) : (highNibble b).toNat = b.toNat / 16 := by
  have hb : b.toNat < 256 := b.isLt
  rw [highNibble, BitVec.extractLsb'_toNat, Nat.shiftRight_eq_div_pow]
  omega

theorem lowNibble_toNat (b : Byte) : (lowNibble b).toNat = b.toNat % 16 := by
  simp [lowNibble, BitVec.extractLsb'_toNat]

theorem sboxIndex_eq_toNat (b : Byte) : sboxIndex b = b.toNat := by
  rw [sboxIndex, highNibble_toNat, lowNibble_toNat]
  omega

/-- SBOX reads the table at its operand (20_memory.md R31). -/
theorem sbox_eq_sboxRom (b : Byte) : sbox b = sboxRom b.toFin := by
  simp [sbox, sboxIndex_eq_toNat]

theorem sbox_eq_row_column (b : Byte) : sbox b = (sboxRows[(highNibble b).toNat])[(lowNibble b).toNat] := by
  simp [sbox_eq_sboxRom, sboxRom, highNibble_toNat, lowNibble_toNat]

/-- The 256 entries are pairwise distinct (41_sbox.md R82 (b)); compared as numbers, which the kernel does faster. -/
theorem sboxRom_nodup : ((List.finRange 256).map fun a => (sboxRom a).toNat).Nodup := by decide +kernel

theorem sboxRom_injective : Function.Injective sboxRom := fun a b h =>
  List.inj_on_of_nodup_map sboxRom_nodup (List.mem_finRange a) (List.mem_finRange b) (congrArg BitVec.toNat h)

theorem sbox_injective : Function.Injective sbox := by
  rw [show sbox = sboxRom ∘ BitVec.toFin from funext sbox_eq_sboxRom]
  exact sboxRom_injective.comp BitVec.toFin_injective

theorem sbox_ne_self_and_ne_complement : ∀ x : Byte, sbox x ≠ x ∧ sbox x ≠ x ^^^ 0xFF := by decide +kernel

theorem sbox_eq_zero_iff (x : Byte) : sbox x = 0x00 ↔ x = 0x52 := sbox_injective.eq_iff' (by decide)

/-! ### The round constants -/

/-- The table starts at entry 1 (20_memory.md R32). -/
theorem rcon_succ (m : Nat) (h : m + 1 < 11) : rcon ⟨m + 1, h⟩ = rconTable[m] := by simp [rcon]

theorem rconTable_doubles : ∀ n : Fin 9, rconTable[n.val + 1] = gfmul 0x02 rconTable[n.val] := by decide

end Sys2Proof.Machine

open Sys2Proof Sys2Proof.Machine

/-- Settles O34: byte `i` read off the vector is the block's byte `i`, and the bytes determine the vector. -/
theorem blockPackingIsMostSignificantFirst : Obligations.BlockPackingIsMostSignificantFirst :=
  ⟨Block.toBits_byte, Block.ofBits_toBits, Block.toBits_ofBits⟩

/-- Settles O20: the index is the byte itself, the table's entries are distinct, and so 0x52 alone maps to zero. -/
theorem sboxIsAPermutationReadByRowAndColumn : Obligations.SboxIsAPermutationReadByRowAndColumn := by
  refine ⟨fun b => ⟨sboxIndex_eq_toNat b, ?lookup⟩, sbox_injective, fun x => ?fixed⟩
  case lookup =>
    have hrow : (highNibble b).toNat < 16 := (highNibble b).isLt
    have hcol : (lowNibble b).toNat < 16 := (lowNibble b).isLt
    simp [sbox_eq_row_column, Vector.getD, hrow, hcol]
  case fixed =>
    obtain ⟨hself, hcompl⟩ := sbox_ne_self_and_ne_complement x
    exact ⟨hself, hcompl, sbox_eq_zero_iff x⟩

/-- Settles O22: the ten entries of the table, and its nine pairs of neighbours. -/
theorem roundConstantsAreRepeatedDoublings : Obligations.RoundConstantsAreRepeatedDoublings := by
  refine ⟨rfl, rfl, rfl, rfl, rfl, rfl, rfl, rfl, rfl, rfl, fun m h hm => ?_⟩
  obtain ⟨n, rfl⟩ := Nat.exists_eq_add_of_le' hm
  rw [rcon_succ, rcon_succ]
  exact rconTable_doubles ⟨n, by omega⟩

/-- Settles O23: the sixteen entries of the table, compared one by one. -/
theorem mixMatrixIsCirculant : Obligations.MixMatrixIsCirculant := by
  unfold Obligations.MixMatrixIsCirculant
  decide

end

section
/-! SUPPORT. The statements of 30_encoding.md: the bits of the command word, decoder and encoder as inverses of one another, and
the operation that a sequencer position or a placed turn selects. -/

namespace Sys2Proof

/-! ### The command word -/

/-- The operand is the low 128 bits of the command word (30_encoding.md R50). -/
theorem commandWord_dinByte (cmd : BitVec 2) (din : Block) (i : Fin 16) :
    (commandWord cmd din).extractLsb' (120 - 8 * i.val) 8 = din[i] :=
  (BitVec.extractLsb'_append_eq_of_add_le (by omega)).trans (Block.toBits_byte din i)

/-- Zero-extended to 136 bits, the command word is the header byte above the operand (assumption log 12). -/
theorem commandWord_zeroExtend (cmd : BitVec 2) (din : Block) :
    (commandWord cmd din).zeroExtend 136 = (0#6 ++ cmd : BitVec 8) ++ Block.toBits din := by
  rw [commandWord, BitVec.append_assoc]
  exact BitVec.setWidth_eq_append (by decide)

/-- Byte `k` of the stream: the header byte first, then the operand's bytes (assumption log 12). -/
theorem commandBytes_getElem? (cmd : BitVec 2) (din : Block) (k : Fin 17) :
    (commandBytes cmd din)[k.val]? = some (((commandWord cmd din).zeroExtend 136).extractLsb' (128 - 8 * k.val) 8) := by
  rw [commandWord_zeroExtend]
  cases k using Fin.cases with
  | zero => exact congrArg some BitVec.extractLsb'_append_eq_left.symm
  | succ i =>
    have hpos : 128 - 8 * i.succ.val = 120 - 8 * i.val := by rw [Fin.val_succ]; omega
    rw [hpos, BitVec.extractLsb'_append_eq_of_add_le (by omega), Block.toBits_byte]
    simp [commandBytes]

/-! ### What the encoder writes and what the decoder reads -/

/-- A byte is its three fields `[7:6]`, `[5:2]` and `[1:0]` (30_encoding.md R59). -/
theorem byte_eq_fields (b : Byte) :
    b.extractLsb' 6 2 ++ (b.extractLsb' 2 4 ++ b.extractLsb' 0 2 : BitVec 6) = b := by
  have hlow : (b.extractLsb' 2 4 ++ b.extractLsb' 0 2 : BitVec 6) = b.extractLsb' 0 6 :=
    BitVec.extractLsb'_append_extractLsb'_eq_extractLsb' rfl
  rw [hlow]
  exact (BitVec.extractLsb'_append_extractLsb'_eq_extractLsb' rfl).trans BitVec.extractLsb'_eq_self

/-- A word whose `rnd` field is in range is the reference word of its fields (30_encoding.md R59). -/
theorem refWord_of_fields {word : Byte} {op ph : BitVec 2} (hop : word.extractLsb' 6 2 = op)
    (hrnd : (word.extractLsb' 2 4).toNat < 11) (hph : word.extractLsb' 0 2 = ph) :
    refWord op ⟨(word.extractLsb' 2 4).toNat, hrnd⟩ ph = word := by
  rw [refWord, BitVec.ofNat_toNat, BitVec.setWidth_eq, ← hop, ← hph, byte_eq_fields]

/-- A byte whose upper fields are zero is the header byte of its command code (30_encoding.md R50). -/
theorem commandHeader_of_fields {head : Byte} (hop : head.extractLsb' 6 2 = 0) (hrnd : head.extractLsb' 2 4 = 0) :
    (0#6 ++ head.extractLsb' 0 2 : BitVec 8) = head := by
  have hhead := byte_eq_fields head
  rw [hop, hrnd] at hhead
  exact BitVec.append_assoc.trans hhead

/-- The first sixteen bytes of a long enough list, as a block and laid out again (20_memory.md R35). -/
theorem Block.toList_ofBytes_append_drop {l : List Byte} (h : 16 ≤ l.length) : (Block.ofBytes l).toList ++ l.drop 16 = l := by
  have htake : (Block.ofBytes l).toList = l.take 16 := by
    refine List.ext_getElem (by simpa using h) fun i hi _ => ?_
    rw [Vector.length_toList] at hi
    simp [Block.ofBytes_getElem l i hi, List.getElem?_eq_getElem (hi.trans_le h)]
  rw [htake, List.take_append_drop]

/-- The encoding of the command with code `cmd` is its command word's bytes (30_encoding.md R51). -/
theorem encode_decodeCommand (cmd : BitVec 2) (din : Block) :
    encode (decodeCommand cmd din) = some (commandBytes cmd din) := by
  have hcodes : ∀ c : BitVec 2, c = 0b00 ∨ c = 0b01 ∨ c = 0b10 ∨ c = 0b11 := by decide
  obtain rfl | rfl | rfl | rfl := hcodes cmd <;> rfl

/-- IDLE's code selects no micro-operation (30_encoding.md R59). -/
theorem op_ne_zero_of_decodeMicroOp {word : Byte} {i : Instr} (h : decodeMicroOp word = .ok i) :
    word.extractLsb' 6 2 ≠ 0b00 := by
  intro hop
  simp only [decodeMicroOp, hop] at h
  split at h <;> cases h

/-- A word that is read as a micro-operation is that micro-operation's encoding: the op and ph fields are the ones of its row,
the rnd field is its operand (30_encoding.md R59). -/
theorem encode_of_decodeMicroOp {word : Byte} {i : Instr} (h : decodeMicroOp word = .ok i) : encode i = some [word] := by
  have hlast : ∀ ph : BitVec 2, ph ≠ 0b00 → ph ≠ 0b01 → ph ≠ 0b10 → ph = 0b11 := by decide
  unfold decodeMicroOp at h
  split at h
  case isFalse => cases h
  case isTrue hrnd =>
    simp only at h
    split_ifs at h with hop h00 hop h00 h01 h10 <;> cases h
    · exact congrArg (some [·]) (refWord_of_fields hop hrnd h00)
    · exact congrArg (some [·]) (refWord_of_fields hop hrnd h00)
    · exact congrArg (some [·]) (refWord_of_fields hop hrnd h01)
    · exact congrArg (some [·]) (refWord_of_fields hop hrnd h10)
    · exact congrArg (some [·]) (refWord_of_fields hop hrnd (hlast _ h00 h01 h10))

/-- Everything that is an encoding: the bytes of a command word, or one reference word (30_encoding.md R51, R59). -/
theorem encode_eq_some_cases {i : Instr} {bytes : List Byte} (h : encode i = some bytes) :
    (∃ cmd din, i = decodeCommand cmd din ∧ bytes = commandBytes cmd din) ∨
    (∃ word, decodeMicroOp word = .ok i ∧ bytes = [word]) := by
  cases i with
  | nop din => cases h; exact .inl ⟨0b00, din, rfl, rfl⟩
  | ldkey din => cases h; exact .inl ⟨0b01, din, rfl, rfl⟩
  | enc din => cases h; exact .inl ⟨0b10, din, rfl, rfl⟩
  | rsvd din => cases h; exact .inl ⟨0b11, din, rfl, rfl⟩
  | kexp r | ark r | sb r | sr r | mc r =>
    cases h
    obtain ⟨hkexp, hark, hsb, hsr, hmc⟩ := decodeMicroOp_refWord r
    exact .inr ⟨_, by assumption, rfl⟩
  | rdstat | rdout | reset | gfmul | xtime | sbox | kscore | expand | encblk => cases h

/-- Everything the decoder reads: a command from its seventeen bytes, or a micro-operation from its one
(30_encoding.md R51, R53, R59). -/
theorem decode_eq_ok_cases {bytes rest : List Byte} {i : Instr} (h : decode bytes = .ok (i, rest)) :
    (∃ cmd din, i = decodeCommand cmd din ∧ bytes = commandBytes cmd din ++ rest) ∨
    (∃ word, decodeMicroOp word = .ok i ∧ bytes = word :: rest) := by
  cases bytes with
  | nil => cases h
  | cons head tail =>
    rw [decode] at h
    split at h
    next hop =>
      split at h
      next hrnd =>
        split at h
        next => cases h
        next hlen =>
          cases h
          refine .inl ⟨_, _, rfl, ?_⟩
          rw [commandBytes, commandHeader_of_fields hop hrnd, List.cons_append,
            Block.toList_ofBytes_append_drop (Nat.not_lt.1 hlen)]
      next => cases h
    next =>
      split at h
      next hword => cases h; exact .inr ⟨head, hword, rfl⟩
      next => cases h

end Sys2Proof

namespace Sys2Proof.Machine

/-! ### The operation that a position or a placed turn selects -/

/-- An operation is selected at its own position and nowhere else (30_encoding.md R59). -/
theorem selected_eq_some_iff {q q' : Seq} {i : Instr} (h : q'.selected = some i) : q.selected = some i ↔ q = q' :=
  ⟨fun hq => selected_inj hq h, fun hq => hq ▸ h⟩

/-- A placed operation is the one selected next: by the turn at the head of the agenda, a micro-operation by its position
(assumption log 17). -/
theorem nextOp_place (s : State) (i : Instr) : (s.place i).nextOp = some i := by
  cases i with
  | nop | ldkey | enc | rsvd => exact (nextOp_issue rfl).trans rfl
  | rdstat => exact nextOp_readStatus rfl
  | rdout => exact nextOp_readDout rfl
  | reset => exact nextOp_reset rfl
  | kexp | ark | sb | sr | mc => exact nextOp_core rfl
  | gfmul | xtime | sbox | kscore | expand | encblk => exact (nextOp_unit rfl).trans rfl

/-- Placing an operation puts one turn before the agenda (assumption log 17). -/
theorem place_popTurn (s : State) (i : Instr) : (s.place i).popTurn = { s.place i with agenda := s.agenda } := by
  cases i <;> rfl

end Sys2Proof.Machine

open Sys2Proof Sys2Proof.Machine

/-- Settles O36: an encoding is a command word's bytes or a reference word, and the decoder reads either back. -/
theorem decodeOfEncodeIsTheOperation : Obligations.DecodeOfEncodeIsTheOperation := by
  intro i bytes rest h
  obtain ⟨cmd, din, rfl, rfl⟩ | ⟨word, hword, rfl⟩ := encode_eq_some_cases h
  · exact decode_commandBytes cmd din rest
  · exact decode_microOp word rest i (op_ne_zero_of_decodeMicroOp hword) hword

/-- Settles O13: the core's turn selects what the position selects, and each micro-operation has one position. -/
theorem positionSelectsTheMicroOperation : Obligations.PositionSelectsTheMicroOperation := by
  intro s r hturn
  rw [nextOp_core hturn]
  exact ⟨selected_eq_some_iff rfl, selected_eq_some_iff rfl, selected_eq_some_iff rfl, selected_eq_some_iff rfl,
    selected_eq_some_iff rfl⟩

/-- Settles O35: the command word is `cmd` above the operand's bits, and its bytes are the header and the operand's bytes. -/
theorem commandBytesAreTheCommandWord : Obligations.CommandBytesAreTheCommandWord := fun cmd din =>
  ⟨BitVec.extractLsb'_append_eq_left, commandWord_dinByte cmd din, by simp [commandBytes], commandBytes_getElem? cmd din⟩

/-- Settles O37: the decoder reads either a command word's bytes or a reference word, and both are encodings. -/
theorem decodedBytesAreTheEncoding : Obligations.DecodedBytesAreTheEncoding := by
  intro bytes i rest h
  obtain ⟨cmd, din, rfl, rfl⟩ | ⟨word, hword, rfl⟩ := decode_eq_ok_cases h
  · exact ⟨_, encode_decodeCommand cmd din, rfl⟩
  · exact ⟨[word], encode_of_decodeMicroOp hword, rfl⟩

/-- Settles O43: the placed operation is the one selected next, and its turn is taken off the agenda. -/
theorem placedOperationIsPerformedNext : Obligations.PlacedOperationIsPerformedNext := by
  intro s i
  rw [step_of_nextOp (nextOp_place s i), place_popTurn]

/-- Settles O38: the rows of the formats CMD and UOP have an encoding, those of PORT and FUNC have none. -/
theorem portAndFunctionUnitsHaveNoEncoding : Obligations.PortAndFunctionUnitsHaveNoEncoding := by
  intro i
  cases i with
  | nop | ldkey | enc | rsvd | kexp | ark | sb | sr | mc => exact iff_of_false nofun (by simp [Instr.format])
  | rdstat | rdout | reset => exact iff_of_true rfl (.inl rfl)
  | gfmul | xtime | sbox | kscore | expand | encblk => exact iff_of_true rfl (.inr rfl)

/-- Settles O39: the decoder run on the eight words. -/
theorem tableWordsDecodeToTheirOperations : Obligations.TableWordsDecodeToTheirOperations :=
  ⟨rfl, rfl, rfl, rfl, rfl, rfl, rfl, rfl⟩

end

section
/-! SUPPORT. The statements of 40_gf_arithmetic.md: the loop of GFMUL carries every additive map that commutes with XTIME, which
gives the field laws; and the remainder modulo 0x11B turns a polynomial's multiple by x into XTIME, which gives the product. -/

namespace Sys2Proof.Machine

/-! ### XTIME and the loop of GFMUL -/

/-- Adding a term on a condition is additive in the condition and the value: the term twice is no term. -/
theorem xor_term_if_xor {w : Nat} (c d : Bool) (p q t : BitVec w) :
    (if c ^^ d then p ^^^ q ^^^ t else p ^^^ q) = (if c then p ^^^ t else p) ^^^ (if d then q ^^^ t else q) := by
  cases c <;> cases d <;> simp [BitVec.xor_assoc, BitVec.xor_comm q t]

/-- XTIME as the loop of GFMUL writes it (40_gf_arithmetic.md R70, R73). -/
theorem xtime_eq_ite (x : Byte) : xtime x = if x.getLsbD 7 then x <<< 1 ^^^ 0x1B else x <<< 1 := by
  rw [xtime]
  cases x.getLsbD 7 <;> simp

theorem xtime_xor (x y : Byte) : xtime (x ^^^ y) = xtime x ^^^ xtime y := by
  simp only [xtime_eq_ite, BitVec.shiftLeft_xor_distrib, BitVec.getLsbD_xor, xor_term_if_xor]

/-- One iteration: the operand `a` is replaced by its double (40_gf_arithmetic.md R70, R73). -/
theorem gfmulLoop_succ (n : Nat) (p a b : Byte) :
    gfmulLoop (n + 1) p a b = gfmulLoop n (if b.getLsbD 0 then p ^^^ a else p) (xtime a) (b >>> 1) := by
  rw [gfmulLoop, xtime_eq_ite]

/-- The loop is additive in the accumulator and the first operand together. -/
theorem gfmulLoop_xor_left (n : Nat) (p q a a' b : Byte) :
    gfmulLoop n (p ^^^ q) (a ^^^ a') b = gfmulLoop n p a b ^^^ gfmulLoop n q a' b := by
  induction n generalizing p q a a' b with
  | zero => rfl
  | succ n ih =>
    rw [gfmulLoop_succ, gfmulLoop_succ, gfmulLoop_succ, ← ih, xtime_xor]
    cases b.getLsbD 0 with
    | false => rfl
    | true =>
      have hsum : p ^^^ q ^^^ (a ^^^ a') = p ^^^ a ^^^ (q ^^^ a') := by ac_rfl
      simp only [if_true, hsum]

/-- The loop is additive in the accumulator and the second operand together. -/
theorem gfmulLoop_xor_right (n : Nat) (p q a b b' : Byte) :
    gfmulLoop n (p ^^^ q) a (b ^^^ b') = gfmulLoop n p a b ^^^ gfmulLoop n q a b' := by
  induction n generalizing p q a b b' with
  | zero => rfl
  | succ n ih =>
    rw [gfmulLoop_succ, gfmulLoop_succ, gfmulLoop_succ, ← ih, BitVec.ushiftRight_xor_distrib, BitVec.getLsbD_xor,
      xor_term_if_xor]

/-- The loop only adds and doubles, so a map that keeps sums and doubles may be applied before it or after it. -/
theorem map_gfmulLoop {f : Byte → Byte} (hadd : ∀ x y, f (x ^^^ y) = f x ^^^ f y) (hdouble : ∀ x, f (xtime x) = xtime (f x))
    (n : Nat) (p a b : Byte) : f (gfmulLoop n p a b) = gfmulLoop n (f p) (f a) b := by
  induction n generalizing p a b with
  | zero => rfl
  | succ n ih => rw [gfmulLoop_succ, gfmulLoop_succ, ih, hdouble, apply_ite f, hadd]

/-! ### The field laws of GFMUL -/

theorem gfmul_xor_left (a b c : Byte) : gfmul (a ^^^ b) c = gfmul a c ^^^ gfmul b c := gfmulLoop_xor_left 8 0 0 a b c

theorem gfmul_xor_right (a b c : Byte) : gfmul a (b ^^^ c) = gfmul a b ^^^ gfmul a c := gfmulLoop_xor_right 8 0 0 a b c

theorem zero_gfmul (a : Byte) : gfmul 0x00 a = 0x00 := by simpa using gfmul_xor_left a a a

theorem gfmul_zero (a : Byte) : gfmul a 0x00 = 0x00 := by simpa using gfmul_xor_right a a a

/-- The 256 products by one, computed. -/
theorem one_gfmul : ∀ a : Byte, gfmul 0x01 a = a := by decide +kernel

theorem xtime_gfmul (a b : Byte) : gfmul (xtime a) b = xtime (gfmul a b) :=
  (map_gfmulLoop xtime_xor (fun _ => rfl) 8 0 a b).symm

/-- Two factors multiplied in from the right change places: multiplying by `c` keeps sums and doubles. -/
theorem gfmul_right_comm (a b c : Byte) : gfmul (gfmul a b) c = gfmul (gfmul a c) b := by
  have hmap := map_gfmulLoop (f := (gfmul · c)) (gfmul_xor_left · · c) (xtime_gfmul · c) 8 0 a b
  rwa [zero_gfmul] at hmap

theorem gfmul_comm (a b : Byte) : gfmul a b = gfmul b a := by
  have hone := gfmul_right_comm 0x01 a b
  rwa [one_gfmul, one_gfmul] at hone

theorem gfmul_assoc (a b c : Byte) : gfmul (gfmul a b) c = gfmul a (gfmul b c) := by
  rw [gfmul_comm a b, gfmul_right_comm, gfmul_comm]

theorem gfmul_one (a : Byte) : gfmul a 0x01 = a := by rw [gfmul_comm, one_gfmul]

theorem two_gfmul (a : Byte) : gfmul 0x02 a = xtime a := by
  rw [show (0x02 : Byte) = xtime 0x01 by decide, xtime_gfmul, one_gfmul]

theorem three_gfmul (a : Byte) : gfmul 0x03 a = xtime a ^^^ a := by
  rw [show (0x03 : Byte) = 0x02 ^^^ 0x01 by decide, gfmul_xor_left, two_gfmul, one_gfmul]

/-! ### The remainder modulo 0x11B -/

/-- One step of the long division in `polyMod`: the term `x ^ (14 - i)` is cancelled by a multiple of 0x11B. -/
def cancelTerm (acc : BitVec 15) (i : Nat) : BitVec 15 :=
  if acc.getLsbD (14 - i) then acc ^^^ (0x11B#15 <<< (6 - i)) else acc

theorem polyMod_eq_foldl_cancelTerm (v : BitVec 15) : polyMod v = ((List.range 7).foldl cancelTerm v).truncate 8 := rfl

theorem cancelTerm_xor (v w : BitVec 15) (i : Nat) : cancelTerm (v ^^^ w) i = cancelTerm v i ^^^ cancelTerm w i := by
  simp only [cancelTerm, BitVec.getLsbD_xor, xor_term_if_xor]

theorem polyMod_xor (v w : BitVec 15) : polyMod (v ^^^ w) = polyMod v ^^^ polyMod w := by
  have hfold := List.foldl_hom₂ (List.range 7) (· ^^^ ·) cancelTerm cancelTerm cancelTerm v w
    fun v w i => (cancelTerm_xor v w i).symm
  rw [polyMod_eq_foldl_cancelTerm, hfold]
  exact BitVec.setWidth_xor

theorem cancelTerm_of_getLsbD_eq_false {v : BitVec 15} {i : Nat} (h : v.getLsbD (14 - i) = false) : cancelTerm v i = v :=
  if_neg (by simp [h])

/-- A byte is its own remainder: there is no term to cancel. -/
theorem polyMod_zeroExtend (a : Byte) : polyMod (a.zeroExtend 15) = a := by
  have hfold : (List.range 7).foldl cancelTerm (a.zeroExtend 15) = a.zeroExtend 15 := by
    refine List.foldlRecOn (motive := (· = a.zeroExtend 15)) _ _ rfl fun v hv i hi => ?_
    have hdeg : 8 ≤ 14 - i := by have := List.mem_range.1 hi; omega
    subst hv
    exact cancelTerm_of_getLsbD_eq_false (by simp [BitVec.getLsbD_of_ge a _ hdeg])
  rw [polyMod_eq_foldl_cancelTerm, hfold]
  exact BitVec.setWidth_setWidth_of_le a (by decide)

/-- A step on the multiple by x is the next step on the polynomial itself. -/
theorem cancelTerm_shiftLeft_one (v : BitVec 15) {i : Nat} (h : i < 6) :
    cancelTerm (v <<< 1) i = cancelTerm v (i + 1) <<< 1 := by
  have hterm : 0x11B#15 <<< (6 - i) = 0x11B#15 <<< (6 - (i + 1)) <<< 1 := by
    rw [← BitVec.shiftLeft_add]
    congr 1
    omega
  have hbit : (v <<< 1).getLsbD (14 - i) = v.getLsbD (14 - (i + 1)) := by
    have hpos : 14 - i = 14 - (i + 1) + 1 := by omega
    have hlt : 14 - (i + 1) + 1 < 15 := by omega
    rw [hpos, BitVec.getLsbD_shiftLeft, decide_eq_true hlt]
    simp
  rw [cancelTerm, cancelTerm, hbit, hterm, ← BitVec.shiftLeft_xor_distrib]
  exact (apply_ite (fun u : BitVec 15 => u <<< 1) _ _ _).symm

theorem foldl_cancelTerm_shiftLeft_one (l : List Nat) (hl : ∀ i ∈ l, i < 6) (v : BitVec 15) :
    l.foldl cancelTerm (v <<< 1) = (l.map (· + 1)).foldl cancelTerm v <<< 1 := by
  induction l generalizing v with
  | nil => rfl
  | cons i l ih =>
    obtain ⟨hi, hl⟩ := List.forall_mem_cons.1 hl
    rw [List.foldl_cons, cancelTerm_shiftLeft_one v hi, ih hl]
    rfl

/-- The last step on a multiple by x cancels the term of degree 8, which is XTIME of the byte below. -/
theorem truncate_cancelTerm_shiftLeft_one (v : BitVec 15) :
    (cancelTerm (v <<< 1) 6).truncate 8 = xtime (v.truncate 8) := by
  rw [cancelTerm, xtime_eq_ite]
  simp [apply_ite (BitVec.setWidth 8)]

/-- The remainder of the multiple by x, as long as the product has degree 14 at most. -/
theorem polyMod_shiftLeft_one {v : BitVec 15} (h : v.getLsbD 14 = false) : polyMod (v <<< 1) = xtime (polyMod v) := by
  have hfirst : (List.range 7).foldl cancelTerm v = ((List.range 6).map (· + 1)).foldl cancelTerm v := by
    rw [List.range_succ_eq_map, List.foldl_cons, cancelTerm_of_getLsbD_eq_false h]
  rw [polyMod_eq_foldl_cancelTerm, polyMod_eq_foldl_cancelTerm, hfirst, List.range_succ, List.foldl_concat,
    foldl_cancelTerm_shiftLeft_one _ (fun _ => List.mem_range.1), truncate_cancelTerm_shiftLeft_one]

/-- The multiple of a byte by x^i has the `i`-fold double as its remainder (40_gf_arithmetic.md R71). -/
theorem polyMod_zeroExtend_shiftLeft (a : Byte) {i : Nat} (h : i < 8) :
    polyMod (a.zeroExtend 15 <<< i) = xtime^[i] a := by
  induction i with
  | zero => simpa using polyMod_zeroExtend a
  | succ i ih =>
    have htop : (a.zeroExtend 15 <<< i).getLsbD 14 = false := by
      simp [BitVec.getLsbD_of_ge a (14 - i) (by omega)]
    rw [BitVec.shiftLeft_add, polyMod_shiftLeft_one htop, ih (by omega), Function.iterate_succ_apply']

/-! ### GFMUL and the product of the two polynomials -/

/-- One step of the schoolbook product in `polyMul`: the multiple of `a` by x^i, where `b` has that term. -/
def addTerm (a b : Byte) (acc : BitVec 15) (i : Nat) : BitVec 15 :=
  if b.getLsbD i then acc ^^^ (a.zeroExtend 15 <<< i) else acc

theorem polyMul_eq_foldl_addTerm (a b : Byte) : polyMul a b = (List.range 8).foldl (addTerm a b) 0 := rfl

/-- The iterations from `i` on are the terms from `i` on, reduced (40_gf_arithmetic.md R71). -/
theorem gfmulLoop_eq_polyMod (a b : Byte) (n i : Nat) (h : i + n ≤ 8) (acc : BitVec 15) :
    gfmulLoop n (polyMod acc) (xtime^[i] a) (b >>> i) = polyMod ((List.range' i n).foldl (addTerm a b) acc) := by
  induction n generalizing i acc with
  | zero => rfl
  | succ n ih =>
    have hterm : polyMod (addTerm a b acc i) = if b.getLsbD i then polyMod acc ^^^ xtime^[i] a else polyMod acc := by
      rw [addTerm, apply_ite polyMod, polyMod_xor, polyMod_zeroExtend_shiftLeft a (by omega)]
    have hbit : (b >>> i).getLsbD 0 = b.getLsbD i := by simp
    rw [gfmulLoop_succ, hbit, ← hterm, ← Function.iterate_succ_apply' xtime, ← BitVec.shiftRight_add, ih _ (by omega),
      List.range'_succ, List.foldl_cons]

theorem gfmul_eq_polyMod_polyMul (a b : Byte) : gfmul a b = polyMod (polyMul a b) := by
  rw [polyMul_eq_foldl_addTerm, List.range_eq_range', ← gfmulLoop_eq_polyMod a b 8 0 (by decide)]
  rfl

end Sys2Proof.Machine

open Sys2Proof Sys2Proof.Machine

/-- Settles O17: eight iterations add the eight terms of the product, each reduced. -/
theorem gfmulIsThePolynomialProduct : Obligations.GfmulIsThePolynomialProduct := gfmul_eq_polyMod_polyMul

/-- Settles O18: the four laws. -/
theorem gfmulObeysTheFieldLaws : Obligations.GfmulObeysTheFieldLaws := fun a b c =>
  ⟨gfmul_comm a b, gfmul_assoc a b c, gfmul_xor_right a b c, gfmul_xor_left a b c⟩

/-- Settles O14: each of the six units delivers its value by definition. -/
theorem functionUnitsDeliverTheirValue : Obligations.FunctionUnitsDeliverTheirValue := fun _ _ _ _ _ _ _ =>
  ⟨rfl, rfl, rfl, rfl, rfl, rfl⟩

/-- Settles O16: zero by additivity, one by the 256 products and commutativity. -/
theorem gfmulByZeroAndOne : Obligations.GfmulByZeroAndOne := fun a =>
  ⟨gfmul_zero a, gfmul_one a, zero_gfmul a, one_gfmul a⟩

/-- Settles O19: the sixteen coefficients by inspection, the products by doubling and adding. -/
theorem xtimeGivesTheMixCoefficients : Obligations.XtimeGivesTheMixCoefficients :=
  ⟨by decide, fun x => ⟨(two_gfmul x).symm, rfl, one_gfmul x, three_gfmul x⟩⟩

end

section
/-! SUPPORT. The statement of 41_sbox.md: the affine map of R82 (a) has an inverse of the same shape, so an entry of the
table determines the byte it is the affine image of, and GFMUL tells that this byte is the inverse of the entry's index. -/

namespace Sys2Proof.Machine

/-! ### Rotations -/

theorem rotateLeft_xor {w : Nat} (x y : BitVec w) (r : Nat) :
    (x ^^^ y).rotateLeft r = x.rotateLeft r ^^^ y.rotateLeft r := by
  refine BitVec.eq_of_getMsbD_eq fun i hi => ?_
  simp only [BitVec.getMsbD_xor, BitVec.getMsbD_rotateLeft, Bool.and_xor_distrib_left]

theorem rotateLeft_rotateLeft {w : Nat} (x : BitVec w) (r t : Nat) :
    (x.rotateLeft r).rotateLeft t = x.rotateLeft (r + t) := by
  refine BitVec.eq_of_getMsbD_eq fun i hi => ?_
  have hlt : (t + i) % w < w := Nat.mod_lt _ (by omega)
  simp only [BitVec.getMsbD_rotateLeft, hlt, decide_true, Bool.true_and, Nat.add_mod_mod, Nat.add_assoc]

theorem rotateLeft_width {w : Nat} (x : BitVec w) : x.rotateLeft w = x := by
  refine BitVec.eq_of_getMsbD_eq fun i hi => ?_
  simp [BitVec.getMsbD_rotateLeft, Nat.mod_eq_of_lt hi, hi]

/-! ### The affine map of the table -/

/-- The defining formula's affine map (41_sbox.md R82 (a)). -/
def sboxAffine (y : Byte) : Byte :=
  y ^^^ y.rotateLeft 1 ^^^ y.rotateLeft 2 ^^^ y.rotateLeft 3 ^^^ y.rotateLeft 4 ^^^ 0x63

/-- The inverse of `sboxAffine`. With `r` for the rotation by one, `r ^ 8 = 1`, and `r + r ^ 3 + r ^ 6` is the
inverse of `1 + r + r ^ 2 + r ^ 3 + r ^ 4` over the two-element field. -/
def sboxAffineInv (b : Byte) : Byte := b.rotateLeft 1 ^^^ b.rotateLeft 3 ^^^ b.rotateLeft 6 ^^^ 0x05

/-- Of the fifteen rotations of `b` in the sum, seven pairs cancel and the rotation by eight is left; the constants cancel. -/
theorem sboxAffine_sboxAffineInv (b : Byte) : sboxAffine (sboxAffineInv b) = b := by
  have hnine : b.rotateLeft 9 = b.rotateLeft 1 := BitVec.rotateLeft_mod_eq_rotateLeft.symm
  have hten : b.rotateLeft 10 = b.rotateLeft 2 := BitVec.rotateLeft_mod_eq_rotateLeft.symm
  have hconst : sboxAffine 0x05#8 = 0#8 := by decide
  simp only [sboxAffine, sboxAffineInv, rotateLeft_xor, rotateLeft_rotateLeft, Nat.reduceAdd, rotateLeft_width b, hnine, hten]
  calc
    _ = b ^^^ (b.rotateLeft 1 ^^^ b.rotateLeft 1) ^^^ (b.rotateLeft 2 ^^^ b.rotateLeft 2) ^^^
        (b.rotateLeft 3 ^^^ b.rotateLeft 3) ^^^ (b.rotateLeft 4 ^^^ b.rotateLeft 4) ^^^ (b.rotateLeft 5 ^^^ b.rotateLeft 5) ^^^
        (b.rotateLeft 6 ^^^ b.rotateLeft 6) ^^^ (b.rotateLeft 7 ^^^ b.rotateLeft 7) ^^^ sboxAffine 0x05 := by
      rw [sboxAffine]
      ac_rfl
    _ = b := by simp [hconst]

/-- The 255 products of an index and the byte behind its entry, computed. -/
theorem gfmul_sboxAffineInv_sbox : ∀ x : Byte, x ≠ 0x00 → gfmul x (sboxAffineInv (sbox x)) = 0x01 := by decide +kernel

end Sys2Proof.Machine

open Sys2Proof Sys2Proof.Machine

/-- Settles O21: the byte behind an entry is the inverse of the index, and the entry is its affine image. -/
theorem sboxIsTheAffineImageOfTheInverse : Obligations.SboxIsTheAffineImageOfTheInverse := by
  refine fun x => ⟨sboxAffineInv (sbox x), ?inverse, (sboxAffine_sboxAffineInv (sbox x)).symm⟩
  case inverse =>
    split
    case isTrue hzero => rw [hzero]; decide
    case isFalse hne => exact gfmul_sboxAffineInv_sbox x hne

end

section
/-! SUPPORT. The statements of 42_key_expansion.md: the first four bytes and the later bytes of a new round key as equations
about KEXP, and the words of the schedule at their round key and column, where R93 reads off as these equations. -/

namespace Sys2Proof.Machine

/-! ### The bytes of the new round key -/

/-- Bytes 0 to 3 of the new round key (42_key_expansion.md R91 step 3). -/
theorem kexp_getElem_of_lt_four (k : Block) (m : Round) (i : Nat) (h : i < 4) :
    (kexp k m)[i] = k[i] ^^^ (kscore (lastWord k) m)[i] := by
  rw [kexp_getElem]
  match i, h with
  | 0, _ | 1, _ | 2, _ | 3, _ => rfl

/-- The later bytes are made from the new round key (42_key_expansion.md R91 step 4). -/
theorem kexp_getElem_add_four (k : Block) (m : Round) (i : Nat) (h : i + 4 < 16) :
    (kexp k m)[i + 4] = k[i + 4] ^^^ (kexp k m)[i] := by
  rw [kexp_getElem, kexp_getElem, kexpByte]

/-! ### The words of the schedule -/

/-- `W n b` is byte `b` of word `n` of the schedule of `key`, four words to a round key (42_key_expansion.md R93). -/
def AreScheduleWords (key : Block) (W : Nat → Nat → Byte) : Prop :=
  ∀ (n b : Nat) (hn : n < 44) (hb : b < 4), W n b = ((expand key)[n / 4])[4 * (n % 4) + b]'(by omega)

section
variable {key : Block} {W : Nat → Nat → Byte} (hW : AreScheduleWords key W) {m b : Nat}
include hW

/-- Word `4m + j` is column `j` of round key `m`. -/
theorem AreScheduleWords.eq_getElem (hm : m < 11) {j : Nat} (hj : j < 4) (hb : b < 4) :
    W (4 * m + j) b = ((expand key)[m])[4 * j + b] := by
  have hround : (4 * m + j) / 4 = m := by omega
  have hcolumn : (4 * m + j) % 4 = j := by omega
  simp only [hW (4 * m + j) b (by omega) hb, hround, hcolumn]

/-- Word `4m` is the first column of round key `m`. -/
theorem AreScheduleWords.eq_getElem_first (hm : m < 11) (hb : b < 4) : W (4 * m) b = ((expand key)[m])[b] := by
  simpa using hW.eq_getElem hm (j := 0) (by decide) hb

/-- Word `4m + 3` is the last word of round key `m`, the one the core function is applied to. -/
theorem AreScheduleWords.lastWord_eq (hm : m < 11) :
    #v[W (4 * m + 3) 0, W (4 * m + 3) 1, W (4 * m + 3) 2, W (4 * m + 3) 3] = lastWord (expand key)[m] := by
  simp [lastWord, hW.eq_getElem hm]

/-- The first word of a round key. -/
theorem AreScheduleWords.first (hm : m + 1 < 11) (hb : b < 4) :
    W (4 * (m + 1)) b = W (4 * m) b ^^^ (kscore (lastWord (expand key)[m]) ⟨m + 1, hm⟩)[b] := by
  rw [hW.eq_getElem_first hm hb, hW.eq_getElem_first (Nat.lt_of_succ_lt hm) hb, expand_succ,
    kexp_getElem_of_lt_four _ _ _ hb]

/-- The later words of a round key. -/
theorem AreScheduleWords.later (hm : m + 1 < 11) {j : Nat} (hj : j + 1 < 4) (hb : b < 4) :
    W (4 * (m + 1) + (j + 1)) b = W (4 * m + (j + 1)) b ^^^ W (4 * (m + 1) + j) b := by
  have hbyte : 4 * (j + 1) + b = 4 * j + b + 4 := by omega
  simp only [hW.eq_getElem hm hj hb, hW.eq_getElem (Nat.lt_of_succ_lt hm) hj hb,
    hW.eq_getElem hm (Nat.lt_of_succ_lt hj) hb, hbyte, expand_succ]
  exact kexp_getElem_add_four _ _ _ (by omega)

end

end Sys2Proof.Machine

open Sys2Proof Sys2Proof.Machine

/-- Settles O25: a byte below 4 uses the core function, any other stands four bytes after a byte of the new round key. -/
theorem kexpUsesTheNewRoundKey : Obligations.KexpUsesTheNewRoundKey := by
  refine fun k m => ⟨fun i => kexp_getElem_of_lt_four k m i.val i.isLt, fun i hi h => ?later⟩
  case later =>
    obtain ⟨i, rfl⟩ := Nat.exists_eq_add_of_le' hi
    exact kexp_getElem_add_four k m i h

/-- Settles O27: the two equations of KEXP, at the byte where a word stands in its round key. -/
theorem scheduleIsTheWordOrientedOne : Obligations.ScheduleIsTheWordOrientedOne := by
  intro key W hW m hm b hb
  replace hW : AreScheduleWords key W := hW
  refine ⟨?first, fun j h1 h3 => ?later⟩
  case first => rw [hW.lastWord_eq (Nat.lt_of_succ_lt hm), hW.first hm hb]
  case later =>
    obtain ⟨j, rfl⟩ := Nat.exists_eq_add_of_le' h1
    exact hW.later hm (Nat.lt_succ_of_le h3) hb

/-- Settles O24: the rotated word's bytes are bytes 1, 2, 3 and 0 of the argument, by definition. -/
theorem kscoreRotatesSubstitutesAddsConstant : Obligations.KscoreRotatesSubstitutesAddsConstant := fun _ _ => rfl

/-- Settles O26: the schedule's two equations. -/
theorem expandIteratesKexpFromTheKey : Obligations.ExpandIteratesKexpFromTheKey := fun key =>
  ⟨expand_zero key, expand_succ key⟩

end

section
/-! SUPPORT. The statements of 43_round_transforms.md: ARK byte by byte, SR as the multiplication of positions by five, and MC
as the matrix product of each column. -/

namespace Sys2Proof.Machine

/-- Blocks with the same bytes are equal. -/
theorem block_ext {s t : Block} (h : ∀ i : Fin 16, s[i] = t[i]) : s = t := Vector.ext fun i hi => h ⟨i, hi⟩

/-! ### AddRoundKey and SubBytes, at a position -/

theorem ark_getElem_fin (s k : Block) (i : Fin 16) : (ark s k)[i] = s[i] ^^^ k[i] := ark_getElem s k i i.isLt

theorem sb_getElem_fin (s : Block) (i : Fin 16) : (sb s)[i] = sbox s[i] := sb_getElem s i i.isLt

theorem ark_ark_self (s k : Block) : ark (ark s k) k = s :=
  Vector.ext fun i hi => by rw [ark_getElem, ark_getElem, BitVec.xor_assoc, BitVec.xor_self, BitVec.xor_zero]

theorem ark_zero (s : Block) : ark s (Vector.replicate 16 0x00) = s :=
  Vector.ext fun i hi => by rw [ark_getElem, Vector.getElem_replicate]; exact BitVec.xor_zero

theorem ark_self (s : Block) : ark s s = Vector.replicate 16 0x00 :=
  Vector.ext fun i hi => by rw [ark_getElem, Vector.getElem_replicate]; exact BitVec.xor_self

theorem ark_comm (s k : Block) : ark s k = ark k s :=
  Vector.ext fun i hi => by rw [ark_getElem, ark_getElem, BitVec.xor_comm]

/-! ### ShiftRows -/

/-- Row `r` is rotated left by `r` columns (43_round_transforms.md R102). -/
theorem sr_getElem_position (s : Block) (r c : Fin 4) : (sr s)[position r c] = s[position r (rotatedCol r c)] := by
  simp only [sr_getElem, rowOf_position, colOf_position]

/-- The source position in closed form, with the product taken modulo 16 (43_round_transforms.md R102). -/
theorem position_rotatedCol : ∀ i : Fin 16, position (rowOf i) (rotatedCol (rowOf i) (colOf i)) = 5 * i := by decide

theorem sr_getElem_five_mul (s : Block) (i : Fin 16) : (sr s)[i] = s[5 * i] := by
  simp only [sr_getElem, position_rotatedCol]

/-- The fourth power of five is one modulo 16. -/
theorem five_mul_four_times : ∀ i : Fin 16, 5 * (5 * (5 * (5 * i))) = i := by decide

theorem five_mul_bijective : Function.Bijective fun i : Fin 16 => 5 * i :=
  Function.bijective_iff_has_inverse.mpr ⟨fun i => 5 * (5 * (5 * i)), five_mul_four_times, five_mul_four_times⟩

theorem sr_four_times (s : Block) : sr (sr (sr (sr s))) = s :=
  block_ext fun i => by simp only [sr_getElem_five_mul, five_mul_four_times]

theorem sr_of_equal_columns {s : Block} (h : ∀ r c c' : Fin 4, s[position r c] = s[position r c']) : sr s = s :=
  block_ext fun i => by rw [← position_rowOf_colOf i, sr_getElem_position, h]

/-- SB acts on each byte alone, so it commutes with a permutation of positions (43_round_transforms.md R101). -/
theorem sb_sr (s : Block) : sb (sr s) = sr (sb s) :=
  block_ext fun i => by simp only [sb_getElem_fin, sr_getElem_five_mul]

/-! ### MixColumns -/

/-- A column's bytes, row by row (10_state.md R11). -/
theorem getElem_position (s : Block) (k c : Fin 4) : s[position k c] = s[4 * c.val + k.val] := by
  simp [position, Nat.add_comm]

/-- An output byte is a row of MIXM times the old column (43_round_transforms.md R103). -/
theorem mc_getElem_column (s : Block) (c k : Fin 4) :
    (mc s)[4 * c.val + k.val] = gfmul (mixm k 0) s[4 * c.val] ^^^ gfmul (mixm k 1) s[4 * c.val + 1] ^^^
      gfmul (mixm k 2) s[4 * c.val + 2] ^^^ gfmul (mixm k 3) s[4 * c.val + 3] := by
  rw [← getElem_position, mc_getElem, rowOf_position, colOf_position]
  simp only [mcTerm, getElem_position]
  rfl

/-- The coefficients of each row of MIXM add up to one (43_round_transforms.md R103). -/
theorem mixm_row_sum : ∀ k : Fin 4, mixm k 0 ^^^ mixm k 1 ^^^ mixm k 2 ^^^ mixm k 3 = 0x01 := by decide

theorem mc_getElem_of_equal_bytes {s : Block} {c : Fin 4} {a : Byte} (h0 : s[4 * c.val] = a) (h1 : s[4 * c.val + 1] = a)
    (h2 : s[4 * c.val + 2] = a) (h3 : s[4 * c.val + 3] = a) (k : Fin 4) : (mc s)[4 * c.val + k.val] = a := by
  rw [mc_getElem_column, h0, h1, h2, h3, ← gfmul_xor_left, ← gfmul_xor_left, ← gfmul_xor_left, mixm_row_sum, one_gfmul]

theorem mc_getElem_congr {s s' : Block} {c : Fin 4} (h : ∀ j : Fin 4, s[4 * c.val + j.val] = s'[4 * c.val + j.val])
    (k : Fin 4) : (mc s)[4 * c.val + k.val] = (mc s')[4 * c.val + k.val] := by
  have h0 : s[4 * c.val] = s'[4 * c.val] := h 0
  have h1 : s[4 * c.val + 1] = s'[4 * c.val + 1] := h 1
  have h2 : s[4 * c.val + 2] = s'[4 * c.val + 2] := h 2
  have h3 : s[4 * c.val + 3] = s'[4 * c.val + 3] := h 3
  rw [mc_getElem_column, mc_getElem_column, h0, h1, h2, h3]

end Sys2Proof.Machine

open Sys2Proof Sys2Proof.Machine

/-- Settles O30: source position `5 * i`, whose fourth iterate is `i`; a byte moves within its row, so equal columns stay. -/
theorem shiftRowsRotatesRowsWithPeriodFour : Obligations.ShiftRowsRotatesRowsWithPeriodFour := fun s =>
  ⟨sr_getElem_position s, sr_getElem_five_mul s, sr_four_times s,
    fun h => sr_of_equal_columns fun r c c' => (h r c).trans (h r c').symm⟩

/-- Settles O31: a row of MIXM times the column, with the products by 1, 2 and 3; the coefficients of a row add up to one. -/
theorem mixColumnsComputesEachColumn : Obligations.MixColumnsComputesEachColumn := by
  rintro s c a0 a1 a2 a3 rfl rfl rfl rfl
  refine ⟨?row0, ?row1, ?row2, ?row3, fun h01 h12 h23 => ?equal⟩
  case row0 =>
    have hrow : (mc s)[4 * c.val] = gfmul 0x02 _ ^^^ gfmul 0x03 _ ^^^ gfmul 0x01 _ ^^^ gfmul 0x01 _ := mc_getElem_column s c 0
    rwa [two_gfmul, three_gfmul, one_gfmul, one_gfmul] at hrow
  case row1 =>
    have hrow : (mc s)[4 * c.val + 1] = gfmul 0x01 _ ^^^ gfmul 0x02 _ ^^^ gfmul 0x03 _ ^^^ gfmul 0x01 _ := mc_getElem_column s c 1
    rwa [one_gfmul, two_gfmul, three_gfmul, one_gfmul] at hrow
  case row2 =>
    have hrow : (mc s)[4 * c.val + 2] = gfmul 0x01 _ ^^^ gfmul 0x01 _ ^^^ gfmul 0x02 _ ^^^ gfmul 0x03 _ := mc_getElem_column s c 2
    rwa [one_gfmul, one_gfmul, two_gfmul, three_gfmul] at hrow
  case row3 =>
    have hrow : (mc s)[4 * c.val + 3] = gfmul 0x03 _ ^^^ gfmul 0x01 _ ^^^ gfmul 0x01 _ ^^^ gfmul 0x02 _ := mc_getElem_column s c 3
    rwa [three_gfmul, one_gfmul, one_gfmul, two_gfmul] at hrow
  case equal => exact mc_getElem_of_equal_bytes rfl h01.symm (h01.trans h12).symm (h01.trans (h12.trans h23)).symm

/-- Settles O32: the byte equations of ARK and SB, the permutation `5 * i` of SR, and the column equation of MC. -/
theorem transformsRespectTheLanes : Obligations.TransformsRespectTheLanes := by
  refine fun s s' k k' => ⟨fun i hs hk => ?ark, fun i hs => ?sb, ⟨_, five_mul_bijective, sr_getElem_five_mul⟩,
    fun c h => mc_getElem_congr h⟩
  case ark => rw [ark_getElem_fin, ark_getElem_fin, hs, hk]
  case sb => rw [sb_getElem_fin, sb_getElem_fin, hs]

/-- Settles O28: the laws of exclusive-or, at every byte. -/
theorem addRoundKeyIsAnInvolution : Obligations.AddRoundKeyIsAnInvolution := fun s k =>
  ⟨ark_getElem_fin s k, ark_ark_self s k, ark_zero s, ark_self s, ark_comm s k⟩

/-- Settles O29: SB byte by byte, and its commutation with the permutation of positions. -/
theorem subBytesCommutesWithShiftRows : Obligations.SubBytesCommutesWithShiftRows := fun s =>
  ⟨sb_getElem_fin s, sb_sr s⟩

end

section
/-! SUPPORT. The statements of 44_block_encrypt.md: what the sequencer's steps make of the state, what a turn that is not the
core's leaves alone, and how a command proceeds to its completion under every interleaving. -/

namespace Sys2Proof.Machine

/-! ### ENCBLK as a loop -/

/-- The full rounds of R110, as a loop over the round keys from the second on. -/
theorem fullRounds_eq_foldl (p : Block) (rk : Sched) (n : Nat) (h : n < 11) :
    fullRounds p rk n h =
      (List.finRange n).foldl (fun s (m : Fin n) => ark (mc (sr (sb s))) (rk[m.val + 1])) (ark p rk[0]) := by
  induction n with
  | zero => rfl
  | succ n ih => simp [fullRounds_succ, ih, List.finRange_succ_last, List.foldl_map]

/-! ### The sequencer's steps -/

/-- A step of key expansion before the last (44_block_encrypt.md R112). -/
theorem exec_kexp_of_lt {m : Round} {s : State} (hq : s.seq = { op := .kx, rnd := m, ph := .ark }) (h1 : 1 ≤ m.val)
    (h : m.val < 10) :
    exec (.kexp m) s = .next ((s.setRk m (kexp s.rk[m.val - 1] m)).goTo .kx ⟨m.val + 1, by omega⟩ .ark) :=
  (if_pos ⟨hq, h1⟩).trans (dif_pos h)

/-- The last step of key expansion completes the LDKEY (44_block_encrypt.md R112). -/
theorem exec_kexp_last {m : Round} {s : State} (hq : s.seq = { op := .kx, rnd := m, ph := .ark }) (h10 : m.val = 10) :
    exec (.kexp m) s = .next (s.setRk m (kexp s.rk[m.val - 1] m)).completeLdkey :=
  (if_pos ⟨hq, by omega⟩).trans (dif_neg (by omega))

/-- AddRoundKey before the last round (44_block_encrypt.md R113). -/
theorem exec_ark_of_lt {r : Round} {s : State} (hq : s.seq = { op := .en, rnd := r, ph := .ark }) (h : r.val < 10) :
    exec (.ark r) s = .next ((s.setSt (ark s.st s.rk[r])).goTo .en ⟨r.val + 1, by omega⟩ .sb) :=
  (if_pos hq).trans (dif_pos h)

/-- The last AddRoundKey completes the ENC (44_block_encrypt.md R113). -/
theorem exec_ark_last {r : Round} {s : State} (hq : s.seq = { op := .en, rnd := r, ph := .ark }) (h10 : r.val = 10) :
    exec (.ark r) s = .next ((s.setSt (ark s.st s.rk[r])).completeEnc (ark s.st s.rk[r])) :=
  (if_pos hq).trans (dif_neg (by omega))

/-- SubBytes at its own position (44_block_encrypt.md R113). -/
theorem exec_sb_of_position {r : Round} {s : State} (hq : s.seq = { op := .en, rnd := r, ph := .sb }) :
    exec (.sb r) s = .next ((s.setSt (sb s.st)).goTo .en r .sr) :=
  if_pos hq

/-- ShiftRows at its own position (44_block_encrypt.md R113). -/
theorem exec_sr_of_position {r : Round} {s : State} (hq : s.seq = { op := .en, rnd := r, ph := .sr }) :
    exec (.sr r) s = .next ((s.setSt (sr s.st)).goTo .en r (if r.val < 10 then .mc else .ark)) :=
  if_pos hq

/-- MixColumns at its own position (44_block_encrypt.md R113). -/
theorem exec_mc_of_position {r : Round} {s : State} (hq : s.seq = { op := .en, rnd := r, ph := .mc }) :
    exec (.mc r) s = .next ((s.setSt (mc s.st)).goTo .en r .ark) :=
  if_pos hq

/-! ### A turn, whoever takes it -/

/-- Every operation has a next state (60_exceptions.md R150, R153). -/
theorem exec_total (i : Instr) (s : State) : ∃ t, exec i s = .next t := by
  cases i with
  | nop | rsvd | rdstat | reset | gfmul | xtime | sbox | kscore | expand | encblk => exact ⟨_, rfl⟩
  | ldkey =>
    rw [exec, execLdkey]
    split <;> exact ⟨_, rfl⟩
  | enc =>
    rw [exec, execEnc]
    split
    · exact ⟨_, rfl⟩
    · split <;> exact ⟨_, rfl⟩
  | rdout =>
    rw [exec, execRdout]
    split <;> exact ⟨_, rfl⟩
  | kexp | ark =>
    simp only [exec, execKexp, execArk]
    split
    · split <;> exact ⟨_, rfl⟩
    · exact ⟨_, rfl⟩
  | sb | sr | mc =>
    simp only [exec, execSb, execSr, execMc]
    split <;> exact ⟨_, rfl⟩

theorem step_total (s : State) : ∃ t, step s = .next t := by
  cases h : s.nextOp with
  | none => exact ⟨_, step_of_no_op h⟩
  | some i =>
    obtain ⟨t, ht⟩ := exec_total i s.popTurn
    exact ⟨t, (step_of_nextOp h).trans ht⟩

/-- No operation changes the agenda (assumption log 6). -/
theorem Effect.agenda_eq {i : Instr} {s t : State} (h : Effect i s t) : t.agenda = s.agenda := by
  cases h <;> simp

/-- A step takes one turn off the agenda. -/
theorem agenda_of_step {s t : State} (h : step s = .next t) : t.agenda = s.agenda.tail := by
  obtain ⟨i, -, heff⟩ | ⟨-, rfl⟩ := step_effect h
  · exact heff.agenda_eq
  · rfl

theorem turn_of_agenda {s : State} {turn : Turn} {tail : List Turn} (ha : s.agenda = turn :: tail) : s.turn = turn := by
  rw [State.turn, ha, List.headD_cons]

/-- An issued command is performed once the turn is taken. -/
theorem step_issue {s : State} {cmd : BitVec 2} {din : Block} {tail : List Turn} (ha : s.agenda = .issue cmd din :: tail) :
    step s = exec (decodeCommand cmd din) s.popTurn :=
  step_of_nextOp (nextOp_issue (turn_of_agenda ha))

/-- At the core's turn the operation its position selects is performed once the turn is taken. -/
theorem step_core {s : State} {i : Instr} (hturn : s.turn = .core) (hsel : s.seq.selected = some i) :
    step s = exec i s.popTurn :=
  step_of_nextOp ((nextOp_core hturn).trans hsel)

/-! ### What a turn of the host leaves alone -/

/-- The registers that R114 (c) speaks of hold in `t` what they hold in `s`. -/
def State.SameRegisters (s t : State) : Prop :=
  t.rk = s.rk ∧ t.st = s.st ∧ t.dout = s.dout ∧ t.seq = s.seq ∧ t.krdy = s.krdy ∧ t.ovld = s.ovld

/-- A turn that is neither the core's nor a Reset selects neither a micro-operation nor RESET. -/
theorem nextOp_host {s : State} {i : Instr} (hc : s.turn ≠ .core) (hr : s.turn ≠ .reset) (h : s.nextOp = some i) :
    i.format ≠ .uop ∧ i ≠ .reset := by
  refine ⟨fun hf => ?_, fun hi => hr (turn_of_nextOp_reset (hi ▸ h))⟩
  cases ht : s.turn with
  | core => exact hc ht
  | reset => exact hr ht
  | issue cmd din =>
    cases (nextOp_issue ht).symm.trans h
    cases (format_decodeCommand cmd din).symm.trans hf
  | readStatus =>
    cases (nextOp_readStatus ht).symm.trans h
    cases hf
  | readDout =>
    cases (nextOp_readDout ht).symm.trans h
    cases hf
  | unit call =>
    cases (nextOp_unit ht).symm.trans h
    cases (format_unitCall call).symm.trans hf

/-- On a busy core every operation but the micro-operations and RESET is dropped or only answers (44_block_encrypt.md
R114 (c)). -/
theorem Effect.sameRegisters_of_busy {i : Instr} {s t : State} (h : Effect i s t) (hb : s.busy = true) (hf : i.format ≠ .uop)
    (hr : i ≠ .reset) : s.SameRegisters t := by
  cases h with
  | ldkeyAccepted hb' | encAccepted hb' => rw [hb] at hb'; cases hb'
  | reset => exact absurd rfl hr
  | notEnabled hu => exact absurd hu hf
  | transform _ hsel => exact absurd (format_selected hsel) hf
  | kexp | kexpLast | arkLast => exact absurd rfl hf
  | nop | ldkeyDropped | encDropped | rsvd | rdstat | rdoutValid | rdoutDraw | unit => exact ⟨rfl, rfl, rfl, rfl, rfl, rfl⟩

/-- A turn that is neither the core's nor a Reset leaves a busy core's registers alone. -/
theorem step_sameRegisters_of_busy {s t : State} (hb : s.busy = true) (hc : s.turn ≠ .core) (hr : s.turn ≠ .reset)
    (h : step s = .next t) : s.SameRegisters t := by
  obtain ⟨i, hi, heff⟩ | ⟨-, rfl⟩ := step_effect h
  · obtain ⟨hf, hreset⟩ := nextOp_host hc hr hi
    exact heff.sameRegisters_of_busy hb hf hreset
  · exact ⟨rfl, rfl, rfl, rfl, rfl, rfl⟩

/-! ### A command in progress -/

/-- `P n` is what holds of a core that has taken `n` of the `total` core steps of its command: before the last the core is busy,
`P n` speaks of no more than the registers of R114 (c), and a core step leads from `P n` to `P (n + 1)`. -/
structure Proceeds (P : Nat → State → Prop) (total : Nat) : Prop where
  busy : ∀ {n s}, n < total → P n s → s.busy = true
  congr : ∀ {n s t}, P n s → s.SameRegisters t → P n t
  core : ∀ {n s t}, n < total → P n s → s.turn = .core → step s = .next t → P (n + 1) t

/-- While the command is in progress, its core steps alone count, whatever the host does between them. -/
theorem Proceeds.run_turns {P : Nat → State → Prop} {total n : Nat} {s : State} {turns rest : List Turn}
    (hP : Proceeds P total) (ha : s.agenda = turns ++ rest) (hr : .reset ∉ turns)
    (hn : n + turns.count .core < total) (hs : P n s) :
    ∃ t, run turns.length s = .next t ∧ t.agenda = rest ∧ P (n + turns.count .core) t := by
  induction turns generalizing n s with
  | nil => exact ⟨s, rfl, ha, hs⟩
  | cons turn turns ih =>
    obtain ⟨u, hu⟩ := step_total s
    have hau : u.agenda = turns ++ rest := by rw [agenda_of_step hu, ha]; rfl
    have hturn : s.turn = turn := turn_of_agenda ha
    obtain ⟨hne, hr⟩ := List.ne_and_not_mem_of_not_mem_cons hr
    rw [List.length_cons, run_succ_of_step _ hu]
    by_cases hc : turn = .core
    · rw [hc, List.count_cons_self, ← Nat.add_assoc, Nat.add_right_comm] at hn ⊢
      exact ih hau hr hn (hP.core (by omega) hs (hturn.trans hc) hu)
    · rw [List.count_cons_of_ne hc] at hn ⊢
      have hsame := step_sameRegisters_of_busy (hP.busy (by omega) hs) (hturn ▸ hc) (hturn ▸ Ne.symm hne) hu
      exact ih hau hr hn (hP.congr hs hsame)

/-- The last core step completes the command (44_block_encrypt.md R114). -/
theorem Proceeds.run_complete {P : Nat → State → Prop} {total : Nat} {s : State} {between rest : List Turn}
    (hP : Proceeds P total) (ha : s.agenda = between ++ .core :: rest) (hr : .reset ∉ between)
    (hn : between.count .core + 1 = total) (hs : P 0 s) :
    ∃ t, run (between.length + 1) s = .next t ∧ t.agenda = rest ∧ P total t := by
  obtain ⟨u, hu, hau, hPu⟩ := hP.run_turns ha hr (by omega) hs
  obtain ⟨t, ht⟩ := step_total u
  rw [Nat.zero_add] at hPu
  have hrun : run (between.length + 1) s = .next t := by rw [run_add _ _ hu, run_succ_of_step 0 ht, run]
  have hat : t.agenda = rest := by rw [agenda_of_step ht, hau, List.tail_cons]
  exact ⟨t, hrun, hat, hn ▸ hP.core (by omega) hPu (turn_of_agenda hau) ht⟩

/-! ### LDKEY in progress -/

/-- An idle core accepts LDKEY (45_commands.md R122). -/
theorem exec_ldkey_of_idle {s : State} (h : s.seq.op = .idle) (k : Block) : exec (.ldkey k) s = .next (s.acceptLdkey k) :=
  if_neg (Bool.eq_false_iff.1 (s.busy_eq_false_iff.2 h))

/-- The position after `n` of the ten steps of an LDKEY (44_block_encrypt.md R112). -/
def ldkeySeq (n : Nat) : Seq :=
  if h : n < 10 then { op := .kx, rnd := ⟨n + 1, by omega⟩, ph := .ark } else Seq.idle

/-- `s` is the state after `n` of the ten steps of the LDKEY with operand `k` that the core accepted in `s₀`. -/
structure LdkeyAfter (s₀ : State) (k : Block) (n : Nat) (s : State) : Prop where
  position : s.seq = ldkeySeq n
  key : s.rk[0] = k
  written : ExpandedTo s.rk n
  ready : n = 10 → s.krdy = true
  dout : s.dout = s₀.dout
  ovld : s.ovld = s₀.ovld

theorem LdkeyAfter.acceptLdkey (s : State) (k : Block) : LdkeyAfter s k 0 (s.acceptLdkey k) where
  position := rfl
  key := s.acceptLdkey_rk_zero k
  written := .zero _
  ready := nofun
  dout := rfl
  ovld := rfl

/-- A core step of an LDKEY writes the next round key, and the tenth one completes it (44_block_encrypt.md R112). -/
theorem LdkeyAfter.core {s₀ s t : State} {k : Block} {n : Nat} (hn : n < 10) (hs : LdkeyAfter s₀ k n s)
    (hturn : s.turn = .core) (h : step s = .next t) : LdkeyAfter s₀ k (n + 1) t := by
  have hq : s.seq = { op := .kx, rnd := ⟨n + 1, by omega⟩, ph := .ark } := by rw [hs.position, ldkeySeq, dif_pos hn]
  have hstep : step s = exec (.kexp ⟨n + 1, by omega⟩) s.popTurn := step_core hturn (by rw [hq]; rfl)
  have hkey : (s.popTurn.setRk ⟨n + 1, by omega⟩ (kexp s.rk[n] ⟨n + 1, by omega⟩)).rk[0] = k :=
    (State.setRk_rk_zero _ _ (by simp)).trans hs.key
  have hwritten := ExpandedTo.set_kexp (m := ⟨n + 1, by omega⟩) (by simp) hs.written
  by_cases hlast : n + 1 = 10
  · have hexec := exec_kexp_last (s := s.popTurn) hq hlast
    cases (hstep.trans hexec).symm.trans h
    exact ⟨by simp [ldkeySeq, hlast], hkey, hwritten, fun _ => rfl, hs.dout, hs.ovld⟩
  · have hexec := exec_kexp_of_lt (s := s.popTurn) hq (by simp) (by simp only; omega)
    cases (hstep.trans hexec).symm.trans h
    exact ⟨by rw [ldkeySeq, dif_pos (by omega)]; rfl, hkey, hwritten, fun h10 => absurd h10 hlast, hs.dout, hs.ovld⟩

theorem ldkeyAfter_proceeds (s₀ : State) (k : Block) : Proceeds (LdkeyAfter s₀ k) 10 where
  busy := fun hn hs => by rw [State.busy, hs.position, ldkeySeq, dif_pos hn]; rfl
  congr := by
    rintro n s t hs ⟨hrk, -, hdout, hseq, hkrdy, hovld⟩
    exact ⟨hseq.trans hs.position, by rw [hrk, hs.key], by rw [hrk]; exact hs.written, fun h => hkrdy.trans (hs.ready h),
      hdout.trans hs.dout, hovld.trans hs.ovld⟩
  core := LdkeyAfter.core

/-! ### ENC in progress -/

/-- An idle core with a ready schedule accepts ENC (45_commands.md R123). -/
theorem exec_enc_of_idle {s : State} (h : s.seq.op = .idle) (hk : s.krdy = true) (p : Block) :
    exec (.enc p) s = .next (s.acceptEnc p) :=
  (if_neg (Bool.eq_false_iff.1 (s.busy_eq_false_iff.2 h))).trans (if_pos hk)

/-- The position after `n` of the forty steps of an ENC (44_block_encrypt.md R111, R113). -/
def encSeq (n : Nat) : Seq :=
  if n < 40 then { op := .en, rnd := (encPosition n).1, ph := (encPosition n).2 } else Seq.idle

/-- `s` is the state after `n` of the forty steps of the ENC with operand `p` that the core accepted in `s₀`. -/
structure EncAfter (s₀ : State) (p : Block) (n : Nat) (s : State) : Prop where
  position : s.seq = encSeq n
  state : s.st = stateAfter p s₀.rk n
  schedule : s.rk = s₀.rk
  ready : s.krdy = true
  output : n = 40 → s.ovld = true ∧ s.dout = encBlk p s₀.rk

theorem EncAfter.acceptEnc {s : State} (hk : s.krdy = true) (p : Block) : EncAfter s p 0 (s.acceptEnc p) where
  position := rfl
  state := rfl
  schedule := rfl
  ready := hk
  output := nofun

/-- A position of an encryption selects one of the four transforms. -/
theorem selected_encrypting (r : Round) (ph : Phase) :
    ∃ i, Seq.selected { op := .en, rnd := r, ph := ph } = some i ∧ i ≠ .kexp 0 := by
  cases ph <;> exact ⟨_, rfl, nofun⟩

/-- What the core's turn can do at a position of an encryption (44_block_encrypt.md R113): a transform, after which the
encryption goes on, or the last AddRoundKey. -/
theorem step_encrypting_cases {s t : State} {r : Round} {ph : Phase} (hq : s.seq = { op := .en, rnd := r, ph := ph })
    (hturn : s.turn = .core) (h : step s = .next t) :
    (∃ r' ph', Seq.advance { op := .en, rnd := r, ph := ph } = { op := .en, rnd := r', ph := ph' } ∧
      t = (s.popTurn.setSt (transformAt s.rk r ph s.st)).goTo .en r' ph') ∨
    ((r, ph) = (10, .ark) ∧
      t = (s.popTurn.setSt (transformAt s.rk r ph s.st)).completeEnc (transformAt s.rk r ph s.st)) := by
  obtain ⟨i, hsel, hi⟩ := selected_encrypting r ph
  rw [← hq] at hsel
  have hf := format_selected hsel
  cases exec_effect ((step_core hturn hsel).symm.trans h) with
  | transform hq' _ hadv =>
    cases hq.symm.trans hq'
    exact .inl ⟨_, _, hq ▸ hadv, rfl⟩
  | arkLast hq' =>
    cases hq.symm.trans hq'
    exact .inr ⟨rfl, rfl⟩
  | notEnabled _ hsel' => exact absurd (hsel' hsel) hi
  | kexp hq' | kexpLast hq' => cases hq.symm.trans hq'
  | unit _ hf' => cases hf.symm.trans hf'
  | _ => cases hf

/-- A core step of an ENC is the next of the forty, and the last one completes it (44_block_encrypt.md R111, R113). -/
theorem EncAfter.core {s₀ s t : State} {p : Block} {n : Nat} (hn : n < 40) (hs : EncAfter s₀ p n s) (hturn : s.turn = .core)
    (h : step s = .next t) : EncAfter s₀ p (n + 1) t := by
  have hq : s.seq = { op := .en, rnd := (encPosition n).1, ph := (encPosition n).2 } := by
    rw [hs.position, encSeq, if_pos hn]
  have hst : transformAt s.rk (encPosition n).1 (encPosition n).2 s.st = stateAfter p s₀.rk (n + 1) := by
    rw [stateAfter_succ, hs.schedule, hs.state]
  obtain ⟨r', ph', hadv, rfl⟩ | ⟨hpos, rfl⟩ := step_encrypting_cases hq hturn h
  · obtain ⟨hn', hpos'⟩ := encPosition_of_advance hn rfl hadv
    exact ⟨by simp [encSeq, hn', ← hpos'], hst, hs.schedule, hs.ready, by omega⟩
  · have hlast : n + 1 = 40 := congrArg (·.val + 1) (encPosition_injective ⟨n, hn⟩ 39 hpos)
    have hdout := hst
    rw [hlast, stateAfter_forty] at hdout
    exact ⟨by rw [hlast, State.completeEnc_seq]; rfl, hst, hs.schedule, hs.ready, fun _ => ⟨rfl, hdout⟩⟩

theorem encAfter_proceeds (s₀ : State) (p : Block) : Proceeds (EncAfter s₀ p) 40 where
  busy := fun hn hs => by rw [State.busy, hs.position, encSeq, if_pos hn]; rfl
  congr := by
    rintro n s t hs ⟨hrk, hst, hdout, hseq, hkrdy, hovld⟩
    exact ⟨hseq.trans hs.position, hst.trans hs.state, hrk.trans hs.schedule, hkrdy.trans hs.ready,
      fun h => ⟨hovld.trans (hs.output h).1, hdout.trans (hs.output h).2⟩⟩
  core := EncAfter.core

/-! ### Control -/

/-- What control decisions are made from (44_block_encrypt.md R115): `SEQ`, the flags, `ECODE`, and whose turn it is. -/
structure Control where
  seq : Seq
  krdy : Bool
  ovld : Bool
  ecode : BitVec 2
  agenda : List Turn

def State.control (s : State) : Control :=
  { seq := s.seq, krdy := s.krdy, ovld := s.ovld, ecode := s.ecode, agenda := s.agenda }

/-! What the shared operations make of control: data goes into no field of it. -/

@[simp] theorem State.control_raiseError (s : State) (code : BitVec 2) : (s.raiseError code).control =
    { s.control with ecode := if s.control.ecode = 0 then code else s.control.ecode } := rfl
@[simp] theorem State.control_acceptLdkey (s : State) (k : Block) : (s.acceptLdkey k).control =
    { s.control with krdy := false, seq := { op := .kx, rnd := 1, ph := .ark } } := rfl
@[simp] theorem State.control_acceptEnc (s : State) (p : Block) : (s.acceptEnc p).control =
    { s.control with ovld := false, seq := { op := .en, rnd := 0, ph := .ark } } := rfl
@[simp] theorem State.control_goTo (s : State) (op : SeqOp) (r : Round) (ph : Phase) : (s.goTo op r ph).control =
    { s.control with seq := { op := op, rnd := r, ph := ph } } := rfl
@[simp] theorem State.control_setSt (s : State) (v : Block) : (s.setSt v).control = s.control := rfl
@[simp] theorem State.control_setRk (s : State) (m : Round) (v : Block) : (s.setRk m v).control = s.control := rfl
@[simp] theorem State.control_completeLdkey (s : State) : s.completeLdkey.control =
    { s.control with seq := Seq.idle, krdy := true } := rfl
@[simp] theorem State.control_completeEnc (s : State) (v : Block) : (s.completeEnc v).control =
    { s.control with seq := Seq.idle, ovld := true } := rfl
@[simp] theorem State.control_resetCore (s : State) : s.resetCore.control =
    { s.control with seq := Seq.idle, krdy := false, ovld := false, ecode := 0 } := rfl
@[simp] theorem State.control_replyWith (s : State) (r : Reply) : (s.replyWith r).control = s.control := rfl
@[simp] theorem State.control_countDraw (s : State) : s.countDraw.control = s.control := rfl
@[simp] theorem State.control_deliver (s : State) (v : UnitResult) : (s.deliver v).control = s.control := rfl
@[simp] theorem State.control_popTurn (s : State) : s.popTurn.control =
    { s.control with agenda := s.control.agenda.tail } := rfl

/-- The control after an operation or a step. -/
def controlOf : Host.Outcome State Fault Refusal → Option Control
  | .next t => some t.control
  | .fault _ | .refused _ => none

@[simp] theorem controlOf_next (t : State) : controlOf (.next t) = some t.control := rfl

section
variable {s s' : State} (h : s.control = s'.control)
include h

theorem seq_of_control_eq : s.seq = s'.seq := congrArg Control.seq h

theorem krdy_of_control_eq : s.krdy = s'.krdy := congrArg Control.krdy h

theorem ovld_of_control_eq : s.ovld = s'.ovld := congrArg Control.ovld h

theorem busy_of_control_eq : s.busy = s'.busy := State.busy_congr (seq_of_control_eq h)

/-- Control selects the next operation. -/
theorem nextOp_of_control_eq : s.nextOp = s'.nextOp := by
  have hturn : s.turn = s'.turn := congrArg (·.agenda.headD .core) h
  rw [State.nextOp, State.nextOp, State.nextWord, State.nextWord, hturn, busy_of_control_eq h, seq_of_control_eq h]

/-- What an operation makes of control does not depend on the data (44_block_encrypt.md R115): each tests control alone. -/
theorem controlOf_exec_eq (i : Instr) : controlOf (exec i s) = controlOf (exec i s') := by
  have hq := seq_of_control_eq h
  have hb := busy_of_control_eq h
  cases i with
  | nop => simp [exec, execNop, h]
  | rsvd => simp [exec, execRsvd, h]
  | rdstat => simp [exec, execRdstat, h]
  | reset => simp [exec, execReset, h]
  | gfmul | xtime | sbox | kscore | expand | encblk =>
    simp [exec, execGfmul, execXtime, execSbox, execKscore, execExpand, execEncblk, h]
  | ldkey => simp [exec, execLdkey, apply_ite controlOf, hb, h]
  | enc => simp [exec, execEnc, apply_ite controlOf, hb, krdy_of_control_eq h, h]
  | rdout => simp [exec, execRdout, apply_ite controlOf, ovld_of_control_eq h, h]
  | kexp => simp [exec, execKexp, apply_ite controlOf, apply_dite controlOf, hq, h]
  | ark => simp [exec, execArk, apply_ite controlOf, apply_dite controlOf, hq, h]
  | sb | sr | mc => simp [exec, execSb, execSr, execMc, apply_ite controlOf, hq, h]

/-- What a step makes of control does not depend on the data (44_block_encrypt.md R115). -/
theorem controlOf_step_eq : controlOf (step s) = controlOf (step s') := by
  have hpop : s.popTurn.control = s'.popTurn.control := by rw [State.control_popTurn, State.control_popTurn, h]
  have hop := nextOp_of_control_eq h
  cases hn : s'.nextOp with
  | none => rw [step_of_no_op (hop.trans hn), step_of_no_op hn, controlOf_next, controlOf_next, hpop]
  | some i => rw [step_of_nextOp (hop.trans hn), step_of_nextOp hn, controlOf_exec_eq hpop]

end

end Sys2Proof.Machine

open Sys2Proof Sys2Proof.Machine

/-- Settles O49: from acceptance on, each of the core's steps writes one round key more, and no turn of the host counts. -/
theorem ldkeyCompletesInTenCoreSteps : Obligations.LdkeyCompletesInTenCoreSteps := by
  intro s k between rest hidle hreset hcount ha
  have haccept : step s = .next (s.popTurn.acceptLdkey k) :=
    (step_issue ha).trans (exec_ldkey_of_idle (s := s.popTurn) hidle k)
  have htail : (s.popTurn.acceptLdkey k).agenda = between ++ .core :: rest := congrArg List.tail ha
  obtain ⟨t, hrun, hagenda, hdone⟩ :=
    (ldkeyAfter_proceeds s.popTurn k).run_complete htail hreset (by rw [hcount]) (.acceptLdkey _ k)
  exact ⟨t, (run_succ_of_step _ haccept).trans hrun, hdone.position, hdone.ready rfl,
    hdone.key ▸ hdone.written.eq_expand rfl, hdone.dout, hdone.ovld, hagenda⟩

/-- Settles O50: from acceptance on, each of the core's steps is the next of the forty, and no turn of the host counts. -/
theorem encCompletesInFortyCoreSteps : Obligations.EncCompletesInFortyCoreSteps := by
  intro s p between rest hidle hkrdy hreset hcount ha
  have haccept : step s = .next (s.popTurn.acceptEnc p) :=
    (step_issue ha).trans (exec_enc_of_idle (s := s.popTurn) hidle hkrdy p)
  have htail : (s.popTurn.acceptEnc p).agenda = between ++ .core :: rest := congrArg List.tail ha
  obtain ⟨t, hrun, hagenda, hdone⟩ :=
    (encAfter_proceeds s.popTurn p).run_complete htail hreset (by rw [hcount]) (.acceptEnc (s := s.popTurn) hkrdy p)
  obtain ⟨hovld, hdout⟩ := hdone.output rfl
  exact ⟨t, (run_succ_of_step _ haccept).trans hrun, hdone.position, hovld, hdout, hdone.schedule, hdone.ready, hagenda⟩

/-- Settles O51: on a busy core what a host event selects is dropped or only answers. -/
theorem hostCannotDisturbABusyCore : Obligations.HostCannotDisturbABusyCore := by
  intro s t turn tail ha hc hr hop h
  have hturn : s.turn = turn := turn_of_agenda ha
  exact step_sameRegisters_of_busy (s.busy_eq_true_iff.2 hop) (hturn ▸ hc) (hturn ▸ hr) h

/-- Settles O54: a step of two states with the same control gives the same control. -/
theorem controlNeverDependsOnData : Obligations.ControlNeverDependsOnData := by
  intro s s' t t' hq hk ho he ha h h'
  have hs : s.control = s'.control := by rw [State.control, State.control, hq, hk, ho, he, ha]
  have hstep := controlOf_step_eq hs
  rw [h, h'] at hstep
  obtain ⟨hq', hk', ho', he', ha'⟩ := Control.mk.inj (Option.some.inj hstep)
  exact ⟨hq', hk', ho', he', ha'⟩

/-- Settles O10: the two equations of KEXP at its own position. -/
theorem kexpStepWritesTheNextRoundKey : Obligations.KexpStepWritesTheNextRoundKey := fun _ _ h1 hq =>
  ⟨exec_kexp_of_lt hq h1, exec_kexp_last hq⟩

/-- Settles O11: the equations of the four transforms at their own positions. -/
theorem encryptionStepsTransformTheState : Obligations.EncryptionStepsTransformTheState := by
  intro r s
  refine ⟨fun hq => ⟨fun hr => ?ark, fun hr => ?arkLast⟩, fun hq => ?sb, fun hq => ?sr, fun hq => ?mc⟩
  case ark => rw [exec_ark_of_lt hq hr, State.goTo, State.setSt]
  case arkLast => rw [exec_ark_last hq hr, State.completeEnc, State.setSt, Seq.idle]
  case sb => rw [exec_sb_of_position hq, State.goTo, State.setSt]
  case sr => rw [exec_sr_of_position hq, State.goTo, State.setSt]
  case mc => rw [exec_mc_of_position hq, State.goTo, State.setSt]

/-- Settles O33: the full rounds are a loop, and the forty steps compute ENCBLK. -/
theorem encblkIsTheFortySteps : Obligations.EncblkIsTheFortySteps := by
  intro p rk
  refine ⟨?loop, ?steps⟩
  case loop => rw [encBlk, fullRounds_eq_foldl]
  case steps => exact stateAfter_forty p rk

end

section
/-! SUPPORT. The statements of 45_commands.md: what the host's commands and its reads of DOUT make of every state, and that a step
on a port event or a function unit performs it. -/

namespace Sys2Proof.Machine

/-! ### Commands that are dropped, and the other answers of the host's events -/

/-- A busy core drops LDKEY (45_commands.md R122). -/
theorem exec_ldkey_of_busy {s : State} (h : s.seq.op ≠ .idle) (k : Block) :
    exec (.ldkey k) s = .next (s.raiseError eBusy) :=
  if_pos (s.busy_eq_true_iff.2 h)

/-- A busy core drops ENC, whatever KRDY is (45_commands.md R123, 60_exceptions.md R155). -/
theorem exec_enc_of_busy {s : State} (h : s.seq.op ≠ .idle) (p : Block) :
    exec (.enc p) s = .next (s.raiseError eBusy) :=
  if_pos (s.busy_eq_true_iff.2 h)

/-- An idle core without a ready schedule drops ENC (45_commands.md R123). -/
theorem exec_enc_of_no_key {s : State} (h : s.seq.op = .idle) (hk : s.krdy = false) (p : Block) :
    exec (.enc p) s = .next (s.raiseError eNokey) :=
  (if_neg (Bool.eq_false_iff.1 (s.busy_eq_false_iff.2 h))).trans (if_neg (Bool.eq_false_iff.1 hk))

/-- While OVLD = 1 ReadDout answers DOUT (45_commands.md R120). -/
theorem exec_rdout_of_valid {s : State} (h : s.ovld = true) : exec .rdout s = .next (s.replyWith (.dout s.dout)) :=
  if_pos h

/-- While OVLD = 0 ReadDout answers a draw (10_state.md R12; assumption log 3). -/
theorem exec_rdout_of_invalid {s : State} (h : s.ovld = false) :
    exec .rdout s = .next (s.countDraw.replyWith (.dout (s.drawn 0))) :=
  if_neg (Bool.eq_false_iff.1 h)

/-- The four codes of the command field (30_encoding.md R51). -/
theorem command_code_cases : ∀ cmd : BitVec 2, cmd = 0b00 ∨ cmd = 0b01 ∨ cmd = 0b10 ∨ cmd = 0b11 := by decide

/-! ### The step on a turn that stands at the head of the agenda -/

/-- The turn at the head of the agenda is taken and the operation it selects performed. -/
theorem step_of_agenda {s : State} {turn : Turn} {tail : List Turn} {i : Instr} (ha : s.agenda = turn :: tail)
    (hop : s.turn = turn → s.nextOp = some i) : step s = exec i { s with agenda := tail } := by
  rw [step_of_nextOp (hop (turn_of_agenda ha)), State.popTurn, ha, List.tail_cons]

end Sys2Proof.Machine

open Sys2Proof Sys2Proof.Machine

/-- Settles O1: NOP is the code 00, and its meaning answers the state it is given. -/
theorem nopChangesNothing : Obligations.NopChangesNothing := fun _ _ => ⟨rfl, rfl⟩

/-- Settles O2: the code 11 raises `E_RSVD`. -/
theorem reservedCodeRecordsItsError : Obligations.ReservedCodeRecordsItsError := by
  intro din s
  have hraise : exec (.rsvd din) s = .next (s.raiseError eRsvd) := rfl
  exact ⟨rfl, hraise⟩

/-- Settles O3: the two answers of LDKEY. -/
theorem ldkeyIsAcceptedIdleAndDroppedBusy : Obligations.LdkeyIsAcceptedIdleAndDroppedBusy := fun din _ =>
  ⟨fun hidle => exec_ldkey_of_idle hidle din, fun hbusy => exec_ldkey_of_busy hbusy din⟩

/-- Settles O4: the three answers of ENC. -/
theorem encIsAcceptedOrDroppedWithItsError : Obligations.EncIsAcceptedOrDroppedWithItsError := fun din _ =>
  ⟨fun hidle hkrdy => exec_enc_of_idle hidle hkrdy din, fun hbusy => exec_enc_of_busy hbusy din,
    fun hidle hkrdy => exec_enc_of_no_key hidle hkrdy din⟩

/-- Settles O5: code by code, the order of the checks leads to the answer the command gives. -/
theorem issueFollowsTheOrderOfChecks : Obligations.IssueFollowsTheOrderOfChecks := by
  intro cmd din s
  obtain ⟨hacceptLdkey, hdropLdkey⟩ := ldkeyIsAcceptedIdleAndDroppedBusy din s
  obtain ⟨hacceptEnc, hdropEnc, hnoKey⟩ := encIsAcceptedOrDroppedWithItsError din s
  obtain rfl | rfl | rfl | rfl := command_code_cases cmd
  · exact (nopChangesNothing din s).2
  · by_cases hidle : s.seq.op = .idle
    · exact (hacceptLdkey hidle).trans (by simp [hidle])
    · exact (hdropLdkey hidle).trans (by simp [hidle])
  · by_cases hidle : s.seq.op = .idle
    · cases hkrdy : s.krdy with
      | true => exact (hacceptEnc hidle hkrdy).trans (by simp [hidle, hkrdy])
      | false => exact (hnoKey hidle hkrdy).trans (by simp [hidle, hkrdy])
    · exact (hdropEnc hidle).trans (by simp [hidle])
  · exact (reservedCodeRecordsItsError din s).2

/-- Settles O7: the two answers of ReadDout. -/
theorem readDoutGivesTheCiphertextOrADraw : Obligations.ReadDoutGivesTheCiphertextOrADraw := fun s =>
  ⟨exec_rdout_of_valid, fun hovld => ⟨s.drawn 0, exec_rdout_of_invalid hovld⟩⟩

/-- Settles O42: a port event or a function unit's turn selects its own operation, which the step then performs. -/
theorem stepPerformsPortEventsAndUnits : Obligations.StepPerformsPortEventsAndUnits := fun _ _ =>
  ⟨fun ha => step_of_agenda ha nextOp_readStatus, fun ha => step_of_agenda ha nextOp_readDout,
    fun ha => step_of_agenda ha nextOp_reset, fun _ ha => step_of_agenda ha nextOp_unit⟩

end

section
/-! SUPPORT. The statements of 46_host_driver.md: the blocks and bytes of a stream, what the turns of ENCSTREAM give the host, and
why a host that keeps its duties meets no error and no draw. -/

namespace Sys2Proof.Machine

/-! ### The blocks of a stream -/

theorem length_streamBlocks (plain : List Byte) : (streamBlocks plain).length = (plain.length + 15) / 16 := by
  simp [streamBlocks, blockCount]

/-- Block `q` begins at byte `16q` (46_host_driver.md R136). -/
theorem getElem_streamBlocks (plain : List Byte) (q : Nat) (h : q < (streamBlocks plain).length) :
    (streamBlocks plain)[q] = Block.ofBytes (plain.drop (16 * q)) := by
  simp [streamBlocks]

/-- A block holds the first sixteen bytes of the list it is made from. -/
theorem ofBytes_congr {l l' : List Byte} (h : ∀ i < 16, l.getD i 0 = l'.getD i 0) : Block.ofBytes l = Block.ofBytes l' := by
  ext1 i hi
  rw [Block.ofBytes_getElem, Block.ofBytes_getElem, h i hi]

/-- The first `n` blocks are those of the first `16n` bytes (46_host_driver.md R140). -/
theorem take_streamBlocks (plain : List Byte) (n : Nat) :
    (streamBlocks plain).take n = streamBlocks (plain.take (16 * n)) := by
  apply List.ext_getElem
  · simp only [List.length_take, length_streamBlocks]
    omega
  · intro q hq _
    rw [List.length_take] at hq
    rw [List.getElem_take, getElem_streamBlocks, getElem_streamBlocks]
    refine ofBytes_congr fun i hi => ?_
    have hbyte : 16 * q + i < 16 * n := by omega
    simp [List.getElem?_take_of_lt hbyte]

/-! ### The bytes of a stream -/

/-- The blocks in a row have sixteen bytes each. -/
theorem length_flatMap_blocks (f : Block → Block) (blocks : List Block) :
    (blocks.flatMap fun b => (f b).toList).length = 16 * blocks.length := by
  simp [List.length_flatMap, Nat.mul_comm]

/-- The first `16n` bytes are those of the first `n` blocks. -/
theorem take_flatMap_blocks (f : Block → Block) (blocks : List Block) (n : Nat) :
    (blocks.flatMap fun b => (f b).toList).take (16 * n) = (blocks.take n).flatMap fun b => (f b).toList := by
  induction blocks generalizing n with
  | nil => simp
  | cons b blocks ih =>
    cases n with
    | zero => simp
    | succ n => simp [List.take_append, Nat.mul_succ, ← ih]

/-- Encryption of the leading blocks needs the leading bytes only (46_host_driver.md R140). -/
theorem take_encStream (key : Block) (plain : List Byte) (n : Nat) :
    (encStream key plain).take (16 * n) = encStream key (plain.take (16 * n)) := by
  rw [encStream, take_flatMap_blocks (encBlk · (expand key)), take_streamBlocks, encStream]

/-! ### What a run gives the host -/

/-- In `n` steps from `s` the core comes to `t`; it gives the host `blocks` on `dout` meanwhile, and records no error. -/
structure Reads (n : Nat) (blocks : List Block) (s t : State) : Prop where
  run : run n s = .next t
  ecode : t.ecode = s.ecode
  dout : doutReads t.seen = doutReads s.seen ++ blocks

theorem Reads.refl (s : State) : Reads 0 [] s s := ⟨rfl, rfl, (List.append_nil _).symm⟩

theorem Reads.trans {m n : Nat} {bs cs : List Block} {s t u : State} (h : Reads m bs s t) (h' : Reads n cs t u) :
    Reads (m + n) (bs ++ cs) s u where
  run := (run_add m n h.run).trans h'.run
  ecode := h'.ecode.trans h.ecode
  dout := by rw [h'.dout, h.dout, List.append_assoc]

theorem Reads.head {n : Nat} {bs : List Block} {s t u : State} (h : Reads 1 [] s t) (h' : Reads n bs t u) :
    Reads (n + 1) bs s u := by
  rw [Nat.add_comm]
  exact h.trans h'

/-- A step that gives the host nothing. -/
theorem Reads.of_step {s t : State} (h : step s = .next t) (he : t.ecode = s.ecode) (hs : t.seen = s.seen) :
    Reads 1 [] s t :=
  ⟨run_succ_of_step 0 h, he, by rw [hs, List.append_nil]⟩

/-- The core's own steps record no error and give the host nothing (44_block_encrypt.md R112, R113). -/
theorem Reads.of_core {s t : State} (hturn : s.turn = .core) (h : step s = .next t) : Reads 1 [] s t := by
  refine .of_step h ?_ (seen_of_step_no_read h (by rw [hturn]; nofun) (by rw [hturn]; nofun))
  obtain ⟨i, hi, heff⟩ | ⟨-, rfl⟩ := step_effect h
  · have hf := format_selected ((nextOp_core hturn).symm.trans hi)
    cases heff with
    | ldkeyDropped | encDropped | rsvd | reset => cases hf
    | _ => rfl
  · rfl

/-- A read of STATUS gives the host nothing on `dout`. -/
theorem Reads.readStatus {s : State} (hturn : s.turn = .readStatus) :
    Reads 1 [] s (s.popTurn.replyWith (.status s.status)) where
  run := run_succ_of_step 0 (step_of_nextOp (nextOp_readStatus hturn))
  ecode := rfl
  dout := by simp [doutReads_append, doutReads]

/-- A read of `dout` while OVLD = 1 gives the host DOUT (45_commands.md R120). -/
theorem Reads.readDout {s : State} (hturn : s.turn = .readDout) (ho : s.ovld = true) :
    Reads 1 [s.dout] s (s.popTurn.replyWith (.dout s.dout)) where
  run := run_succ_of_step 0 ((step_of_nextOp (nextOp_readDout hturn)).trans (exec_rdout_of_valid (s := s.popTurn) ho))
  ecode := rfl
  dout := by simp [doutReads_append, doutReads]

/-! ### The turns of ENCSTREAM -/

/-- Left alone, a command in progress comes to its end. -/
theorem Proceeds.exists_reads_core {P : Nat → State → Prop} {total : Nat} (hP : Proceeds P total)
    {rest : List Turn} (k : Nat) :
    ∀ {n : Nat} {s : State}, n + k = total → P n s → s.agenda = List.replicate k .core ++ rest →
      ∃ t, Reads k [] s t ∧ t.agenda = rest ∧ P total t := by
  induction k with
  | zero =>
    rintro n s rfl hs ha
    exact ⟨s, .refl s, ha, hs⟩
  | succ k ih =>
    intro n s hn hs ha
    have hturn : s.turn = .core := turn_of_agenda ha
    obtain ⟨u, hu⟩ := step_total s
    have hau : u.agenda = List.replicate k .core ++ rest := by rw [agenda_of_step hu, ha]; rfl
    obtain ⟨t, hreads, hat, ht⟩ := ih (by omega) (hP.core (by omega) hs hturn hu) hau
    exact ⟨t, (Reads.of_core hturn hu).head hreads, hat, ht⟩

/-- A WAIT that begins when a command is accepted ends when the command is completed (30_encoding.md R58; assumption log 19). -/
theorem Proceeds.exists_reads_wait {P : Nat → State → Prop} {total : Nat} (hP : Proceeds P total) {s : State}
    {rest : List Turn} (hs : P 0 s) (ha : s.agenda = waitTurns total ++ rest) :
    ∃ t, Reads (waitTurns total).length [] s t ∧ t.agenda = rest ∧ P total t := by
  rw [waitTurns, List.append_assoc] at ha
  obtain ⟨u, hreads, hau, hu⟩ := hP.exists_reads_core total (Nat.zero_add total) hs ha
  have hlen : (waitTurns total).length = total + 1 := by simp [waitTurns]
  refine ⟨u.popTurn.replyWith (.status u.status), ?_, congrArg List.tail hau, hP.congr hu ⟨rfl, rfl, rfl, rfl, rfl, rfl⟩⟩
  rw [hlen]
  exact hreads.trans (.readStatus (turn_of_agenda hau))

/-- The core is idle and `rk` is its ready schedule: it would accept an ENC (45_commands.md R123). -/
structure State.ReadyWith (rk : Sched) (s : State) : Prop where
  idle : s.seq.op = .idle
  krdy : s.krdy = true
  schedule : s.rk = rk

/-- SETKEY on an idle core leaves the expansion of its key (46_host_driver.md R136). -/
theorem exists_reads_setKey {s : State} {key : Block} {rest : List Turn} (hidle : s.seq.op = .idle)
    (ha : s.agenda = setKeyTurns key ++ rest) :
    ∃ t, Reads (setKeyTurns key).length [] s t ∧ t.agenda = rest ∧ t.ReadyWith (expand key) := by
  have haccept : step s = .next (s.popTurn.acceptLdkey key) :=
    (step_issue ha).trans (exec_ldkey_of_idle (s := s.popTurn) hidle key)
  obtain ⟨t, hreads, hat, hdone⟩ :=
    (ldkeyAfter_proceeds s.popTurn key).exists_reads_wait (.acceptLdkey _ key) (congrArg List.tail ha)
  exact ⟨t, (Reads.of_step haccept rfl rfl).head hreads, hat,
    by rw [hdone.position]; rfl, hdone.ready rfl, hdone.key ▸ hdone.written.eq_expand rfl⟩

/-- ENCRYPT on an idle core with a ready schedule gives the host the ciphertext block (46_host_driver.md R136). -/
theorem exists_reads_encrypt {rk : Sched} {s : State} {p : Block} {rest : List Turn} (hs : s.ReadyWith rk)
    (ha : s.agenda = encryptTurns p ++ rest) :
    ∃ t, Reads (encryptTurns p).length [encBlk p rk] s t ∧ t.agenda = rest ∧ t.ReadyWith rk := by
  obtain ⟨hidle, hkrdy, rfl⟩ := hs
  rw [encryptTurns, List.cons_append, List.append_assoc] at ha
  have haccept : step s = .next (s.popTurn.acceptEnc p) :=
    (step_issue ha).trans (exec_enc_of_idle (s := s.popTurn) hidle hkrdy p)
  obtain ⟨t, hreads, hat, hdone⟩ :=
    (encAfter_proceeds s.popTurn p).exists_reads_wait (.acceptEnc (s := s.popTurn) hkrdy p) (congrArg List.tail ha)
  obtain ⟨hovld, hdout⟩ := hdone.output rfl
  have hread := Reads.readDout (turn_of_agenda hat) hovld
  rw [hdout] at hread
  exact ⟨_, (Reads.of_step haccept rfl rfl).head (hreads.trans hread), congrArg List.tail hat,
    (congrArg Seq.op hdone.position).trans rfl, hdone.ready, hdone.schedule⟩

/-- ENCRYPT of one block after the other gives the host one ciphertext block after the other (46_host_driver.md R136). -/
theorem exists_reads_encryptAll {rk : Sched} {s : State} {blocks : List Block} {rest : List Turn} (hs : s.ReadyWith rk)
    (ha : s.agenda = blocks.flatMap encryptTurns ++ rest) :
    ∃ t, Reads (blocks.flatMap encryptTurns).length (blocks.map (encBlk · rk)) s t ∧ t.agenda = rest := by
  induction blocks generalizing s with
  | nil => exact ⟨s, .refl s, ha⟩
  | cons p blocks ih =>
    rw [List.flatMap_cons, List.append_assoc] at ha
    obtain ⟨u, hone, hau, hu⟩ := exists_reads_encrypt hs ha
    obtain ⟨t, hall, hat⟩ := ih hu hau
    exact ⟨t, by rw [List.flatMap_cons, List.length_append]; exact hone.trans hall, hat⟩

/-! ### A host that keeps its duties -/

/-- Only a command that the core drops records an error (60_exceptions.md R151, R153). -/
theorem ecode_of_dutiful {s t : State} (hd : s.dutiful = true) (he : s.ecode = 0) (h : step s = .next t) : t.ecode = 0 := by
  obtain ⟨i, hi, heff⟩ | ⟨-, rfl⟩ := step_effect h
  · rw [State.dutiful, hi] at hd
    cases heff with
    | ldkeyDropped hb =>
      rw [State.busy_popTurn] at hb
      simp [hb] at hd
    | encDropped hdrop =>
      rw [State.busy_popTurn, State.popTurn_krdy] at hdrop
      obtain hb | hk := hdrop
      · simp [hb] at hd
      · simp [hk] at hd
    | rsvd => cases hd
    | reset => rfl
    | _ => exact he
  · exact he

/-- What the host has done and read is true of the core: it is idle since the host read so, the key it issued is ready or being
expanded, and the output is valid since the host read so (46_host_driver.md R143). -/
structure HostView.Fits (v : HostView) (s : State) : Prop where
  idle : v.idleRead = true → s.seq.op = .idle
  key : v.keyIssued = true → s.krdy = true ∨ s.seq.op = .kx
  valid : v.validRead = true → s.ovld = true

theorem HostView.fresh_fits (s : State) : HostView.fresh.Fits s := ⟨nofun, nofun, nofun⟩

/-- Only a command or Reset can make what the host knows of the core untrue. -/
theorem Effect.fits {v : HostView} {i : Instr} {s t : State} (h : Effect i s t) (hf : v.Fits s) (hc : i.format ≠ .cmd)
    (hr : i ≠ .reset) : v.Fits t := by
  cases h with
  | nop | ldkeyDropped | ldkeyAccepted | encDropped | encAccepted | rsvd => exact absurd rfl hc
  | reset => exact absurd rfl hr
  | notEnabled => exact hf
  | rdstat | rdoutValid | rdoutDraw | unit => exact ⟨hf.idle, hf.key, hf.valid⟩
  | kexp hq => exact ⟨fun hi => absurd (hf.idle hi) (by simp [hq]), fun _ => .inr rfl, hf.valid⟩
  | kexpLast => exact ⟨fun _ => rfl, fun _ => .inl rfl, hf.valid⟩
  | transform hq =>
    exact ⟨fun hi => absurd (hf.idle hi) (by simp [hq]),
      fun hk => (hf.key hk).imp_right fun hx => absurd hx (by simp [hq]), hf.valid⟩
  | arkLast hq =>
    exact ⟨fun _ => rfl, fun hk => (hf.key hk).imp_right fun hx => absurd hx (by simp [hq]), fun _ => rfl⟩

/-- Where the duties permit an ENC, the core accepts it (46_host_driver.md R143 (a), (b)). -/
theorem HostView.Fits.accepts_enc {v : HostView} {s : State} {p : Block} (hf : v.Fits s)
    (hp : v.permits (.issue 0b10 p) = true) : s.seq.op = .idle ∧ s.krdy = true := by
  simp only [permits_enc, Bool.and_eq_true] at hp
  obtain ⟨⟨hkey, hread⟩, -⟩ := hp
  have hidle := hf.idle hread
  exact ⟨hidle, (hf.key hkey).resolve_right (by simp [hidle])⟩

/-- The duties bring about what the core asks of a step (46_host_driver.md R143, 45_commands.md R125). -/
theorem HostView.Fits.dutiful {v : HostView} {s : State} (hf : v.Fits s) (hp : v.permits s.turn = true) : s.dutiful = true := by
  cases ht : s.turn with
  | core =>
    rw [State.dutiful, nextOp_core ht]
    cases hsel : s.seq.selected with
    | none => rfl
    | some i => obtain ⟨rfl, -⟩ | ⟨rfl, -⟩ | ⟨rfl, -⟩ | ⟨rfl, -⟩ | ⟨rfl, -⟩ := selected_cases hsel <;> rfl
  | readStatus => rw [State.dutiful, nextOp_readStatus ht]
  | reset => rw [State.dutiful, nextOp_reset ht]
  | unit call =>
    rw [State.dutiful, nextOp_unit ht]
    cases call <;> rfl
  | readDout =>
    rw [ht, permits_readDout] at hp
    rw [State.dutiful, nextOp_readDout ht]
    exact hf.valid hp
  | issue cmd din =>
    rw [ht] at hp
    rw [State.dutiful, nextOp_issue ht]
    obtain rfl | rfl | rfl | rfl := command_code_cases cmd
    · rfl
    · simp [decodeCommand, s.busy_eq_false_iff.2 (hf.idle hp)]
    · obtain ⟨hidle, hkrdy⟩ := hf.accepts_enc hp
      simp [decodeCommand, s.busy_eq_false_iff.2 hidle, hkrdy]
    · cases hp

/-- What the host takes note of at a permitted command is true of the core, which accepts it (46_host_driver.md R143). -/
theorem HostView.Fits.note_issue {v : HostView} {s t : State} {cmd : BitVec 2} {din : Block} (hf : v.Fits s)
    (hp : v.permits (.issue cmd din) = true) (h : exec (decodeCommand cmd din) s = .next t) :
    (v.note (.issue cmd din) t.seen).Fits t := by
  obtain rfl | rfl | rfl | rfl := command_code_cases cmd
  · cases h
    exact hf
  · cases (exec_ldkey_of_idle (hf.idle hp) din).symm.trans h
    exact ⟨nofun, fun _ => .inr rfl, hf.valid⟩
  · obtain ⟨hidle, hkrdy⟩ := hf.accepts_enc hp
    cases (exec_enc_of_idle hidle hkrdy din).symm.trans h
    exact ⟨nofun, fun _ => .inl hkrdy, nofun⟩
  · cases hp

/-- What the host takes note of at a permitted turn is true of the core after it (46_host_driver.md R143). -/
theorem HostView.Fits.note_step {v : HostView} {s t : State} (hf : v.Fits s) (hp : v.permits s.turn = true)
    (h : step s = .next t) : (v.note s.turn t.seen).Fits t := by
  have hf' : v.Fits s.popTurn := ⟨hf.idle, hf.key, hf.valid⟩
  cases ht : s.turn with
  | core =>
    obtain ⟨i, hi, heff⟩ | ⟨-, rfl⟩ := step_effect h
    · have hfmt := format_selected ((nextOp_core ht).symm.trans hi)
      exact heff.fits hf' (by simp [hfmt]) (by rintro rfl; cases hfmt)
    · exact hf'
  | unit call =>
    have hfmt := format_unitCall call
    rw [step_of_nextOp (nextOp_unit ht)] at h
    exact (exec_effect h).fits hf' (by simp [hfmt]) (by intro hreset; rw [hreset] at hfmt; cases hfmt)
  | readStatus =>
    cases (step_of_nextOp (nextOp_readStatus ht)).symm.trans h
    rw [note_readStatus]
    exact ⟨fun hi => s.busy_eq_false_iff.1 (by simpa using hi), hf.key, id⟩
  | readDout =>
    have hfits := (exec_effect ((step_of_nextOp (nextOp_readDout ht)).symm.trans h)).fits hf' nofun nofun
    exact ⟨hfits.idle, hfits.key, hfits.valid⟩
  | reset => exact HostView.fresh_fits t
  | issue cmd din => exact hf'.note_issue (ht ▸ hp) ((step_of_nextOp (nextOp_issue ht)).symm.trans h)

/-- After `n` steps of a host that keeps its duties for longer, what it knows is still true of the core, and no error is
recorded. -/
theorem HostView.Fits.after_run {v : HostView} {s : State} {n m : Nat} (hf : v.Fits s) (h : dutifulFor (m + n) v s = true) :
    ∃ v' t, run n s = .next t ∧ v'.Fits t ∧ dutifulFor m v' t = true ∧ (s.ecode = 0 → t.ecode = 0) := by
  induction n generalizing v s with
  | zero => exact ⟨v, s, rfl, hf, h, id⟩
  | succ n ih =>
    obtain ⟨hp, u, hu, hrest⟩ := dutifulFor_succ h
    obtain ⟨v', t, ht, hf', hm, he⟩ := ih (hf.note_step hp hu) hrest
    exact ⟨v', t, (run_succ_of_step n hu).trans ht, hf', hm, fun h0 => he (ecode_of_dutiful (hf.dutiful hp) h0 hu)⟩

end Sys2Proof.Machine

open Sys2Proof Sys2Proof.Machine

/-- Settles O53: what a dutiful host has read stays true of the core until the host itself changes it, so the core accepts every
command it is given and `dout` is valid when it is read. -/
theorem dutifulHostRecordsNoError : Obligations.DutifulHostRecordsNoError := by
  refine ⟨fun s t hd he h => ecode_of_dutiful hd he h, fun n s he h => ?_, fun n s t h hrun hread => ?_⟩
  · obtain ⟨-, t, hrun, -, -, hecode⟩ := (HostView.fresh_fits s).after_run (m := 0) (n := n) (by rwa [Nat.zero_add])
    exact ⟨t, hrun, hecode he⟩
  · obtain ⟨v, t', hrun', hfits, hnext, -⟩ := (HostView.fresh_fits s).after_run (m := 1) (n := n) (by rwa [Nat.add_comm])
    cases hrun.symm.trans hrun'
    have hp := (dutifulFor_succ hnext).1
    rw [State.turn, hread, permits_readDout] at hp
    exact hfits.valid hp

/-- Settles O60: SETKEY leaves the expanded key in an idle core, and each ENCRYPT gives the host the next ciphertext block. -/
theorem streamTurnsProduceTheCiphertext : Obligations.StreamTurnsProduceTheCiphertext := by
  intro key plain s rest hidle ha
  rw [streamTurns, List.append_assoc] at ha
  obtain ⟨u, hkey, hau, hready⟩ := exists_reads_setKey hidle ha
  obtain ⟨t, hblocks, hat⟩ := exists_reads_encryptAll hready hau
  have hreads := hkey.trans hblocks
  refine ⟨t, ?run, hat, hreads.ecode, ?bytes⟩
  case run => rw [streamTurns, List.length_append, hreads.run]
  case bytes => rw [hreads.dout, List.flatMap_append, List.nil_append, List.flatMap_map, encStream]

/-- Settles O59: the first `n` ciphertext blocks are the ciphertext of the first `n` plaintext blocks. -/
theorem equalLeadingBlocksEncryptEqually : Obligations.EqualLeadingBlocksEncryptEqually := by
  intro key a b n _ _ hab
  rw [take_encStream, take_encStream, hab]

/-- Settles O57: block `q` is made from the bytes from `16q` on, a missing one reading as zero. -/
theorem lastBlockIsZeroPadded : Obligations.LastBlockIsZeroPadded := by
  intro plain q i hq
  rw [← length_streamBlocks] at hq
  simp [List.getElem?_eq_getElem hq, getElem_streamBlocks, Block.ofBytes_getElem]

/-- Settles O58: sixteen bytes for each block. -/
theorem streamLengthIsRoundedUp : Obligations.StreamLengthIsRoundedUp := by
  intro key plain
  rw [encStream, length_flatMap_blocks (encBlk · (expand key)), length_streamBlocks]

end

section
/-! SUPPORT. The statements of 60_exceptions.md and 70_reset_and_hazards.md: nothing stops the machine, Reset in any state, and a
core or a micro-operation that has nothing to do. -/

namespace Sys2Proof.Machine

/-- Where R112 does not enable KEXP, at another position or at `m = 0`, KEXP leaves the state (assumption log 7, 8). -/
theorem exec_kexp_of_not_enabled {m : Round} {s : State}
    (h : s.seq ≠ { op := .kx, rnd := m, ph := .ark } ∨ m.val = 0) : exec (.kexp m) s = .next s := by
  have hdisabled : ¬ (s.seq = { op := .kx, rnd := m, ph := .ark } ∧ 1 ≤ m.val) := by
    rintro ⟨hq, h1⟩
    obtain hne | h0 := h
    · exact hne hq
    · omega
  exact if_neg hdisabled

/-- The core's turn on an idle core is taken and selects nothing (70_reset_and_hazards.md R171). -/
theorem step_core_idle {s : State} (hturn : s.turn = .core) (hidle : s.seq.op = .idle) : step s = .next s.popTurn :=
  step_of_no_op (nextOp_core_idle hturn (s.busy_eq_false_iff.2 hidle))

end Sys2Proof.Machine

open Sys2Proof Sys2Proof.Machine

/-- Settles O45: every operation answers a next state, and so does a turn that selects none. -/
theorem everyStepAnswersANextState : Obligations.EveryStepAnswersANextState := step_total

/-- Settles O8: RK, ST and DOUT are thirteen draws, the other registers what R23 specifies. -/
theorem resetClearsTheFlagsInAnyState : Obligations.ResetClearsTheFlagsInAnyState := fun s =>
  ⟨s.resetCore.rk, s.resetCore.st, s.resetCore.dout, rfl⟩

/-- Settles O44: an idle core's turn selects no operation, so that the turn alone is taken. -/
theorem idleCoreWaits : Obligations.IdleCoreWaits := fun _ hturn hidle => step_core_idle hturn hidle

/-- Settles O12: each micro-operation tests its position first. -/
theorem unselectedMicroOperationIsNotPerformed : Obligations.UnselectedMicroOperationIsNotPerformed := by
  intro r s
  refine ⟨fun hnot => ?kexp, fun hne => ?ark, fun hne => ?sb, fun hne => ?sr, fun hne => ?mc⟩
  case kexp => exact exec_kexp_of_not_enabled hnot
  case ark | sb | sr | mc => exact if_neg hne

end
